-- ==== Sys2Proof/Word.lean ====
section
/-! DEFINITION. The plain data every other file speaks of: bytes, channel, zone and axis numbers, and one value per axis. -/

namespace Sys2Proof

/-- One byte on the motion link (R169). -/
abbrev Byte := BitVec 8

/-- A camera channel number, 0 to 15 (Numbering and addresses). -/
abbrev Chan := Fin 16

/-- A floor zone number, 0 to 23 (R126). -/
abbrev Zone := Fin 24

/-- The sixteen channels in ascending order. -/
def allChans : List Chan := [0, 1, 2, 3, 4, 5, 6, 7, 8, 9, 10, 11, 12, 13, 14, 15]

/-- The twenty-four zones in ascending order. -/
def allZones : List Zone :=
  [0, 1, 2, 3, 4, 5, 6, 7, 8, 9, 10, 11, 12, 13, 14, 15, 16, 17, 18, 19, 20, 21, 22, 23]

/-- The six axes of a camera, numbered in this order (Axes; R181). -/
inductive Axis where
  | pan | tilt | zoom | focus | lift | travel
  deriving DecidableEq, Repr

/-- The axes in axis order. -/
def allAxes : List Axis := [.pan, .tilt, .zoom, .focus, .lift, .travel]

/-- The number an axis has in frames, records and tables (R181). -/
def Axis.number : Axis → Nat
  | .pan => 0 | .tilt => 1 | .zoom => 2 | .focus => 3 | .lift => 4 | .travel => 5

/-- The axis of a number, where there is one. -/
def Axis.ofNumber : Nat → Option Axis
  | 0 => some .pan | 1 => some .tilt | 2 => some .zoom | 3 => some .focus | 4 => some .lift
  | 5 => some .travel | _ => none

/-- One value for each of the six axes. -/
structure PerAxis (α : Type) where
  pan : α
  tilt : α
  zoom : α
  focus : α
  lift : α
  travel : α
  deriving DecidableEq, Repr

/-- The value held for one axis. -/
def PerAxis.get {α : Type} (v : PerAxis α) : Axis → α
  | .pan => v.pan | .tilt => v.tilt | .zoom => v.zoom | .focus => v.focus | .lift => v.lift
  | .travel => v.travel

/-- The six values a function of the axis gives. -/
def PerAxis.ofFn {α : Type} (f : Axis → α) : PerAxis α :=
  ⟨f .pan, f .tilt, f .zoom, f .focus, f .lift, f .travel⟩

/-- The same value for every axis. -/
def PerAxis.all {α : Type} (x : α) : PerAxis α := ⟨x, x, x, x, x, x⟩

/-- The six values in axis order. -/
def PerAxis.toList {α : Type} (v : PerAxis α) : List α :=
  [v.pan, v.tilt, v.zoom, v.focus, v.lift, v.travel]

/-- The values with one axis given a new value. -/
def PerAxis.set {α : Type} (v : PerAxis α) (a : Axis) (x : α) : PerAxis α :=
  .ofFn fun b => if b = a then x else v.get b

/-- An axis mask, as the set of axes it stands for (Axes). -/
abbrev AxisSet := PerAxis Bool

/-- The axes two sets have in common. -/
def AxisSet.inter (x y : AxisSet) : AxisSet := .ofFn fun a => x.get a && y.get a

/-- The axes that hold a value. -/
def PerAxis.present {α : Type} (v : PerAxis (Option α)) : AxisSet := .ofFn fun a => (v.get a).isSome

end Sys2Proof
end

