-- ==== Sys2Proof/Syntax.lean ====
section
/-! DEFINITION. The commands of the part: one constructor of Instr for each row of spec/opcode_table.json. -/

namespace Sys2Proof

/-- The two link ports (R169): the Control Port faces the studio controller, the Head Port the heads. -/
inductive Port where
  | control | head
  deriving DecidableEq, Repr

/-- What a received frame carries beside its kind (R170): destination, source and payload.
The kind is that of the command it stands in; the check of a received frame has matched (R171). -/
structure Msg where
  dest : Byte
  source : Byte
  payload : List Byte
  deriving DecidableEq, Repr

/-- A whole frame of the link (R170). Sync, length and check follow from these four fields. -/
structure Frame where
  dest : Byte
  source : Byte
  kind : Byte
  payload : List Byte
  deriving DecidableEq, Repr

/-- The frame a message of a given kind is. -/
def Msg.frame (m : Msg) (kind : Byte) : Frame := ⟨m.dest, m.source, kind, m.payload⟩

/-- Those that take a field event (R160): the Head Port and each mapped channel. -/
inductive Taker where
  | headPort
  | channel (c : Chan)
  deriving DecidableEq, Repr

/-- The commands. A frame command carries the frame as received, so that a wrong length or a field out of range
is a value of its operand; REFERENCE_PULSE carries the time base count of its edge; a command that produces a
field event carries the takers that take it within the command, in the order they take it (R100, R108, R125,
R139 and R160 leave that order open). -/
inductive Instr where
  | powerOnReset (straps : BitVec 5)
  | resetPinAssert
  | candidateDiscard (port : Port) (bytes : List Byte)
  | callQueue (m : Msg)
  | callNext (m : Msg)
  | cut (m : Msg)
  | jog (m : Msg)
  | halt (m : Msg)
  | broadcastHalt (m : Msg)
  | resume (m : Msg)
  | flush (m : Msg)
  | recover (m : Msg)
  | query (m : Msg)
  | tally (m : Msg)
  | shotWrite (m : Msg)
  | shotErase (m : Msg)
  | shotRead (m : Msg)
  | shotReadNext (m : Msg)
  | verify (m : Msg)
  | limitWrite (m : Msg)
  | limitRead (m : Msg)
  | cameraWrite (m : Msg)
  | cameraRead (m : Msg)
  | zoneRead (m : Msg)
  | zoneRelease (m : Msg)
  | partQuery (m : Msg)
  | reset (m : Msg)
  | badKindFrame (f : Frame)
  | forwardDownstream (f : Frame)
  | position (m : Msg)
  | alarm (m : Msg)
  | manualRequest (m : Msg)
  | manualRelease (m : Msg)
  | forwardUpstream (f : Frame)
  | referencePulse (time : Nat) (takers : List Taker)
  | windowElapsedLimit
  | flywheelTimerExpiry (takers : List Taker)
  | profileComplete (c : Chan)
  | stopRampComplete (c : Chan)
  | jogDeadman (c : Chan)
  | jogEnd (c : Chan)
  | zoneTimeout (c : Chan)
  | settleTimeout (c : Chan)
  | reportLoss (c : Chan)
  | manualWaitTimeout (c : Chan)
  | zoneGrant (c : Chan)
  | manualGrant (c : Chan)
  | parkedCallAdmission
  | headPortFrameBoundary
  | controlPortFrameBoundary
  deriving DecidableEq, Repr

end Sys2Proof
end

