-- ==== Sys2Proof/Decode.lean ====
section
/-! DEFINITION. Reading a command from a word of spec/opcode_table.json. The table gives no row any bits, so no word
spells a command. -/

namespace Sys2Proof

/-- The command a word of the table spells: none, since no row of the table has bits (DESIGN CHOICE, log entry 23; safe). -/
def decodeTableWord (_nbits _w : Nat) : Option Instr := none

end Sys2Proof
end

