-- ==== Sys2Proof/Config.lean ====
section
/-! DEFINITION. What the manual fixes for every RCV-1612: capacities, identity, times and the reset values of
records. The manual leaves no value free, so there is no opaque constant here. -/

namespace Sys2Proof.Config

/-- Records the shot directory holds at most (R1). -/
def shotCapacity : Nat := 512
/-- Entries of the cue pool (R80). -/
def poolSize : Nat := 64
/-- Queued entries a channel has at most (R82). -/
def queueCapacity : Nat := 8
/-- Entries of the Outbound Queue (R185). -/
def outboundCapacity : Nat := 32
/-- Frames of the downstream forward queue (R176). -/
def downstreamCapacity : Nat := 8
/-- Frames of the upstream forward queue (R176). -/
def upstreamCapacity : Nat := 16
/-- Frames of the head control list (R178). -/
def headControlCapacity : Nat := 16
/-- The longest payload, in bytes (R170). -/
def maxPayload : Nat := 96
/-- The longest move, in fields (R39). -/
def maxDuration : Nat := 4095
/-- Where the zone wait count and the manual wait count saturate (R107, R153). -/
def maxWaitCount : Nat := 4095
/-- Where report age saturates (R62). -/
def maxReportAge : Nat := 255
/-- The jog age at which the deadman acts (R146). -/
def jogDeadmanAge : Nat := 8
/-- The following-error count that faults (R66). -/
def followErrorLimit : Nat := 3
/-- The widest place an answer to ZONE READ shows in one frame (R184). -/
def zoneReadPartWaiters : Nat := 11
/-- The held period after power-on, in µs (R158). -/
def resetHeldPeriod : Nat := 20000
/-- Tolerance of an accepted pulse about the held period, in µs (R164). -/
def pulseTolerance : Nat := 500
/-- Intervals of a measurement window (R161). -/
def windowPulses : Nat := 8
/-- The least length of a window that locks, in µs (R162). -/
def windowLeast : Nat := 120000
/-- The elapsed limit of a window, in µs (R162). -/
def windowLimit : Nat := 168000
/-- Link address 0: the studio controller. -/
def controllerAddress : Byte := 0
/-- Link address 31: broadcast. -/
def broadcastAddress : Byte := 31
/-- The part address that a strap value of 0 or 31 is taken as (R169). -/
def defaultPartAddress : Byte := 30
/-- Sync byte of a frame (R170). -/
def sync : Byte := 0xA5
/-- Vendor code of PART QUERY (R191). -/
def vendorCode : Byte := 0x0B
/-- Part code of PART QUERY (R191). -/
def partCode : Nat := 0x0612
/-- Revision of PART QUERY (R191). -/
def revision : Byte := 0x01
/-- Lowest position of the position range (Quantities). -/
def positionMin : Int := -8388608
/-- Highest position of the position range (Quantities). -/
def positionMax : Int := 8388607

end Sys2Proof.Config
end

