-- ==== Sys2Proof/Machine/State.lean ====
section
/-! DEFINITION. The state of the part as plain data: every record, queue, count, timer and line of the nine
blocks, and the queue of commands that wait. State.powerOn is the power-on condition of R192. -/

namespace Sys2Proof.Machine

/-- What stops the machine with a fault. The manual names no event that stops the part: a fault of a camera is a
state of its channel (R69), so this type has no constructor and nothing raises it (safe). -/
inductive Fault
  deriving DecidableEq, Repr

/-- Why a command is not run. -/
inductive Refusal where
  /-- Raised only by an arm of exec whose command has no meaning yet; no arm raises it (safe). -/
  | notModelled (mnemonic : String)
  deriving DecidableEq, Repr

/-- Tally of a channel (R72). -/
inductive Tally where
  | offAir | onAir
  deriving DecidableEq, Repr

/-- States of the Reference Monitor (R158). -/
inductive RefState where
  | absent | acquire | locked | flywheel
  deriving DecidableEq, Repr

/-- The states a move, a jog or a handover returns its channel to: post-state and return state (R99, R141, R150). -/
inductive RestState where
  | idle | held
  deriving DecidableEq, Repr

/-- How a move ended (R124). -/
inductive MoveOutcome where
  | arrived | settleTimeout | superseded | halted | tallyStop | flushed | displaced | noShot
  | startOutside | profileRange | zoneTimeout | faulted
  deriving DecidableEq, Repr

/-- What began a stop (R114). -/
inductive StopCause where
  | halted | superseded | tallyStop
  deriving DecidableEq, Repr

/-- Mode of a CALL (R182). -/
inductive CallMode where
  | queue | next | cut
  deriving DecidableEq, Repr

/-- A cue entry in use: queued or active (R81). -/
structure Cue where
  shot : Nat
  tag : BitVec 16
  override : Option Nat
  rank : Nat
  deriving DecidableEq, Repr

/-- A parked call (R81): the values of a cue and the mode that places it at its admission. -/
structure ParkedCall where
  shot : Nat
  tag : BitVec 16
  override : Option Nat
  mode : CallMode
  deriving DecidableEq, Repr

/-- A shot record (R3). The axis set is the set of axes that have a target. -/
structure Shot where
  channel : Chan
  number : Nat
  live : Bool
  targets : PerAxis (Option Int)
  ease : Option Nat
  duration : Option Nat
  route : List Zone
  rest : List Zone
  deriving DecidableEq, Repr

/-- A limit record (R20). -/
structure Limits where
  minPos : Int
  maxPos : Int
  vmax : Nat
  amax : Nat
  vlive : Nat
  alive : Nat
  astop : Nat
  follow : Nat
  window : Nat
  deriving DecidableEq, Repr

/-- A channel configuration record (R54). -/
structure CameraConfig where
  link : Byte
  mask : AxisSet
  defaultEase : Nat
  queueLimit : Nat
  zoneWaitLimit : Nat
  settleLimit : Nat
  reportTimeout : Nat
  latency : Fin 8
  manualZones : List Zone
  deriving DecidableEq, Repr

/-- A move record (R99). start, target and dist are P0, the clamped target and D of the moved axes;
ease, dur, w, q and field are R, T, W, Q and k. -/
structure Move where
  cue : Cue
  shot : Shot
  moved : AxisSet
  start : PerAxis Int
  target : PerAxis Int
  dist : PerAxis Int
  ease : Nat
  dur : Nat
  w : Nat
  q : Nat
  field : Nat
  clamped : Bool
  stretched : Bool
  live : Bool
  zones : List Zone
  waitCount : Nat
  settleCount : Nat
  post : RestState
  deriving DecidableEq, Repr

/-- A stop record (R44, R114). Its post-state is that of the move record beside it. -/
structure Stop where
  base : PerAxis Int
  vel : PerAxis Int
  rs : Nat
  step : Nat
  cause : StopCause
  deriving DecidableEq, Repr

/-- Demand J and velocity u of one axis of a jog (R141). -/
structure JogAxis where
  demand : Int
  velocity : Int
  deriving DecidableEq, Repr

/-- A jog record (R141). The jog axis set is the set of axes that hold a JogAxis. -/
structure Jog where
  axes : PerAxis (Option JogAxis)
  age : Nat
  ret : RestState
  deriving DecidableEq, Repr

/-- The state of a channel with the records that exist in it and in no other state (R53, R99, R141, R150). -/
inductive Phase where
  | vacant
  | idle
  | zoneWait (m : Move)
  | moving (m : Move)
  | stopping (m : Move) (st : Stop)
  | settling (m : Move)
  | held
  | jogging (j : Jog)
  | manualWait (ret : RestState) (count : Nat)
  | manual (ret : RestState)
  | fault
  deriving DecidableEq, Repr

/-- The field snapshot (R62, R79). -/
structure Snapshot where
  commanded : PerAxis Int
  reported : PerAxis Int
  deriving DecidableEq, Repr

/-- The setpoint history H[0] to H[7] of one axis (R53). -/
abbrev History := Vector Int 8

/-- A camera channel (R53), with the limit records (R19), the cue queue (R82) and the parked call slot (R83)
that bear its number. fieldDue says that a field event has been delivered to the channel and is not yet taken. -/
structure Channel where
  config : CameraConfig
  phase : Phase
  tally : Tally
  commanded : PerAxis Int
  reported : PerAxis Int
  valid : Bool
  headStatus : Byte
  history : PerAxis History
  followErrors : PerAxis Nat
  reportAge : Nat
  snapshot : Snapshot
  manualPending : Bool
  last : Option (Nat × MoveOutcome)
  limits : PerAxis Limits
  pendingLimits : PerAxis (Option Limits)
  queue : List Cue
  nextRank : Nat
  parked : Option ParkedCall
  fieldDue : Bool
  deriving DecidableEq, Repr

/-- Kind of a waiter (R127). -/
inductive WaiterKind where
  | move | manual
  deriving DecidableEq, Repr

/-- A waiter of the Zone Wait List (R127). -/
structure Waiter where
  channel : Chan
  kind : WaiterKind
  zones : List Zone
  deriving DecidableEq, Repr

/-- The Zone Table and the Zone Wait List, oldest waiter first (R126, R127). -/
structure Floor where
  owners : Vector (Option Chan) 24
  waiters : List Waiter
  deriving DecidableEq, Repr

/-- An active measurement window (R161). Its elapsed time is the time base count less startAt. -/
structure Window where
  startAt : Nat
  pulses : Nat
  deriving DecidableEq, Repr

/-- The Reference Monitor (R158). Times are time base counts in µs; now is that of the latest event taken.
afterLock says that no pulse has been accepted since the lock (R163). fieldState is the state in which the latest
field event was produced (R160), and headDue that the Head Port has not yet taken that field event. -/
structure Monitor where
  state : RefState
  heldPeriod : Nat
  now : Nat
  flywheelAt : Nat
  window : Option Window
  lastFieldAt : Nat
  afterLock : Bool
  fieldState : RefState
  headDue : Bool
  deriving DecidableEq, Repr

/-- A setpoint frame of a batch, marked sent or unsent (R177). -/
structure BatchFrame where
  frame : Frame
  sent : Bool
  deriving DecidableEq, Repr

/-- A setpoint batch: at most one frame for each channel (R177). -/
abbrev Batch := Vector (Option BatchFrame) 16

/-- The Link Interface (R171, R176 to R180): bytes of the candidate frame in progress at each receiver, the forward
queues, the head control list, the current batch, the frames that channels hold for the batch of a field event the
Head Port has not yet taken (R177), and the frame in progress on each transmit line. controlSecond says that the
frame on the Control Port line is the first part of the two-frame answer at the head of the Outbound Queue. reached says
that a frame has reached the part since the release of the reset (R192). -/
structure Link where
  controlRx : List Byte
  headRx : List Byte
  downstream : List Frame
  upstream : List Frame
  headControl : List Frame
  batch : Batch
  nextBatch : Batch
  headLine : Option Frame
  controlLine : Option Frame
  controlSecond : Bool
  reached : Bool
  deriving DecidableEq, Repr

/-- An entry of the Outbound Queue (R185): one frame, or the two frames of a long ZONE READ answer (R180). -/
structure OutEntry where
  first : Frame
  second : Option Frame
  deriving DecidableEq, Repr

/-- The Outbound Queue, oldest entry first, its reserved places and the notice-lost flag (R185 to R187). -/
structure Outbound where
  entries : List OutEntry
  reserved : Nat
  noticeLost : Bool
  deriving DecidableEq, Repr

/-- The whole part. resetHeld says that power-on reset is asserted or RESET_N is low (R192). The shot directory is
ordered by channel and shot number (R1). pending is the queue of commands that wait. -/
structure State where
  resetHeld : Bool
  partAddress : Byte
  shots : List Shot
  channels : Vector Channel 16
  poolFree : Nat
  parkOrder : List Chan
  floor : Floor
  monitor : Monitor
  link : Link
  out : Outbound
  pending : List Instr
  deriving DecidableEq, Repr

/-- The reset values of a limit record (R20). -/
def Limits.reset : Limits where
  minPos := Config.positionMin
  maxPos := Config.positionMax
  vmax := 100
  amax := 10
  vlive := 20
  alive := 2
  astop := 20
  follow := 0
  window := 0

/-- The reset values of a configuration record (R54). -/
def CameraConfig.reset : CameraConfig where
  link := 0
  mask := .all true
  defaultEase := 12
  queueLimit := 4
  zoneWaitLimit := 250
  settleLimit := 25
  reportTimeout := 10
  latency := 2
  manualZones := []

/-- A history whose eight entries hold one position (R64). -/
def History.fill (p : Int) : History := Vector.replicate 8 p

/-- A snapshot of zeros (R57, R78). -/
def Snapshot.zero : Snapshot := ⟨.all 0, .all 0⟩

/-- A channel after power-on (R54, R63, R72, R78, R96, R150). -/
def Channel.powerOn : Channel where
  config := .reset
  phase := .vacant
  tally := .offAir
  commanded := .all 0
  reported := .all 0
  valid := false
  headStatus := 0
  history := .all (History.fill 0)
  followErrors := .all 0
  reportAge := 0
  snapshot := .zero
  manualPending := false
  last := none
  limits := .all .reset
  pendingLimits := .all none
  queue := []
  nextRank := 0
  parked := none
  fieldDue := false

/-- The Reference Monitor at the release of the reset, which is the origin of the time base count (R158, R192). -/
def Monitor.powerOn : Monitor where
  state := .absent
  heldPeriod := Config.resetHeldPeriod
  now := 0
  flywheelAt := Config.resetHeldPeriod
  window := none
  lastFieldAt := 0
  afterLock := false
  fieldState := .absent
  headDue := false

/-- An empty batch. -/
def Batch.empty : Batch := Vector.replicate 16 none

/-- The Link Interface after power-on: both receivers hunt, every queue is empty, both lines are idle, and no
frame has reached the part (R176 to R180, R192). -/
def Link.powerOn : Link where
  controlRx := []
  headRx := []
  downstream := []
  upstream := []
  headControl := []
  batch := .empty
  nextBatch := .empty
  headLine := none
  controlLine := none
  controlSecond := false
  reached := false

/-- The part address a strap value gives (R169): the value, with 0 and 31 taken as 30. -/
def addressOfStraps (straps : BitVec 5) : Byte :=
  if straps = 0 ∨ straps = 31 then Config.defaultPartAddress else straps.setWidth 8

/-- The condition after the release of power-on reset or RESET_N, with the straps as sampled then (R192). -/
def State.powerOn (straps : BitVec 5) : State where
  resetHeld := false
  partAddress := addressOfStraps straps
  shots := []
  channels := Vector.replicate 16 .powerOn
  poolFree := Config.poolSize
  parkOrder := []
  floor := ⟨Vector.replicate 24 none, []⟩
  monitor := .powerOn
  link := .powerOn
  out := ⟨[], 0, false⟩
  pending := []

/-- The part right after reset (R192). DESIGN CHOICE (log entry 1): the straps read 0, so the part address is 30.
Unsafe: the manual leaves the straps to the wiring. -/
def State.reset : State := .powerOn 0

end Sys2Proof.Machine
end

