-- ==== Sys2Proof/Machine/Operands.lean ====
section
/-! DEFINITION. Frames as bytes: the check, the kind codes, the multi-byte fields and the payload layouts of the
motion link (R170 to R172, R181 to R183). -/

namespace Sys2Proof.Machine

/-! ## Multi-byte fields (R181) -/

/-- A 2-byte unsigned field, high byte first. -/
def u16 (hi lo : Byte) : Nat := hi.toNat * 256 + lo.toNat

/-- A 3-byte two's complement field, high byte first. -/
def s24 (a b c : Byte) : Int :=
  let n := a.toNat * 65536 + b.toNat * 256 + c.toNat
  if n < 8388608 then (n : Int) else (n : Int) - 16777216

/-- One byte holding a number. -/
def be8 (n : Nat) : List Byte := [BitVec.ofNat 8 n]

/-- Two bytes holding a number, high byte first. -/
def be16 (n : Nat) : List Byte := [BitVec.ofNat 8 (n / 256), BitVec.ofNat 8 n]

/-- Three bytes holding a position or a signed velocity in two's complement, high byte first. -/
def be24 (x : Int) : List Byte :=
  let n := (x % 16777216).toNat
  [BitVec.ofNat 8 (n / 65536), BitVec.ofNat 8 (n / 256), BitVec.ofNat 8 n]

/-- 1 for yes and 0 for no, in a field of one byte. -/
def flagByte (b : Bool) : List Byte := [if b then 1 else 0]

/-- The mask byte of an axis set: bit n for axis n, bits 6 and 7 clear. -/
def maskByte (x : AxisSet) : Byte :=
  BitVec.ofNat 8 (x.pan.toNat + 2 * x.tilt.toNat + 4 * x.zoom.toNat + 8 * x.focus.toNat + 16 * x.lift.toNat
    + 32 * x.travel.toNat)

/-- The axis set of a mask byte whose bits 6 and 7 are clear; none otherwise (R172). -/
def axisSetOf (b : Byte) : Option AxisSet :=
  if b.toNat < 64 then
    some ⟨b.getLsbD 0, b.getLsbD 1, b.getLsbD 2, b.getLsbD 3, b.getLsbD 4, b.getLsbD 5⟩
  else none

/-- The three bytes of a zone set: bit n of the 24-bit value for zone n. -/
def zoneSetBytes (zs : List Zone) : List Byte :=
  let n := (allZones.map fun z => if z ∈ zs then 2 ^ z.val else 0).sum
  [BitVec.ofNat 8 (n / 65536), BitVec.ofNat 8 (n / 256), BitVec.ofNat 8 n]

/-- A zone number byte. -/
def zoneOf (b : Byte) : Option Zone := if h : b.toNat < 24 then some ⟨b.toNat, h⟩ else none

/-- A list of zone number bytes; none when one is above 23. -/
def zonesOf : List Byte → Option (List Zone)
  | [] => some []
  | b :: bs =>
    match zoneOf b, zonesOf bs with
    | some z, some zs => some (z :: zs)
    | _, _ => none

/-- The zone number bytes of a list of zones. -/
def zoneBytes (zs : List Zone) : List Byte := zs.map fun z => BitVec.ofNat 8 z.val

/-- A channel number byte; none above 15. -/
def chanOf (b : Byte) : Option Chan := if h : b.toNat < 16 then some ⟨b.toNat, h⟩ else none

/-- A channel number in one byte. -/
def chanByte (c : Chan) : Byte := BitVec.ofNat 8 c.val

/-! ## The check (R170) -/

/-- One bit of the CRC-16 with polynomial 1021h. -/
def crcBit (crc : BitVec 16) : BitVec 16 :=
  if crc.getLsbD 15 then (crc <<< 1) ^^^ 0x1021#16 else crc <<< 1

/-- The CRC after one more byte, most significant bit first. -/
def crcByte (crc : BitVec 16) (b : Byte) : BitVec 16 :=
  let x := crc ^^^ (b.setWidth 16 <<< 8)
  crcBit (crcBit (crcBit (crcBit (crcBit (crcBit (crcBit (crcBit x)))))))

/-- The check of a list of bytes: initial value FFFFh, no final inversion. -/
def crc16 (bytes : List Byte) : BitVec 16 := bytes.foldl crcByte 0xFFFF#16

/-- The check as it is sent, high byte first. -/
def crcBytes (bytes : List Byte) : List Byte := be16 (crc16 bytes).toNat

/-- Bytes 1 to 4 + L of a frame, over which its check is computed. -/
def frameBody (f : Frame) : List Byte :=
  f.dest :: f.source :: f.kind :: BitVec.ofNat 8 f.payload.length :: f.payload

/-- A frame as the bytes of the line. -/
def frameBytes (f : Frame) : List Byte := Config.sync :: frameBody f ++ crcBytes (frameBody f)

/-! ## Kind codes (R172) -/

/-- Camera command kinds, 10h to 16h. -/
inductive CameraKind where
  | call | jog | halt | resume | flush | recover | query
  deriving DecidableEq, Repr

/-- Kinds taken at the part's own address, 20h to 2Ch. -/
inductive PartKind where
  | tally | shotWrite | shotErase | shotRead | verify | limitWrite | limitRead | cameraWrite | cameraRead
  | zoneRead | zoneRelease | partQuery | reset
  deriving DecidableEq, Repr

/-- Kinds taken from the heads, 60h to 63h. -/
inductive HeadKind where
  | position | alarm | manualRequest | manualRelease
  deriving DecidableEq, Repr

/-- The code of a camera command kind. -/
def cameraCode : CameraKind → Byte
  | .call => 0x10 | .jog => 0x11 | .halt => 0x12 | .resume => 0x13 | .flush => 0x14 | .recover => 0x15
  | .query => 0x16

/-- The code of a kind taken at the part's address. -/
def partCode : PartKind → Byte
  | .tally => 0x20 | .shotWrite => 0x21 | .shotErase => 0x22 | .shotRead => 0x23 | .verify => 0x24
  | .limitWrite => 0x25 | .limitRead => 0x26 | .cameraWrite => 0x27 | .cameraRead => 0x28 | .zoneRead => 0x29
  | .zoneRelease => 0x2A | .partQuery => 0x2B | .reset => 0x2C

/-- The code of a kind taken from the heads. -/
def headCode : HeadKind → Byte
  | .position => 0x60 | .alarm => 0x61 | .manualRequest => 0x62 | .manualRelease => 0x63

/-- The camera command kind of a kind byte. -/
def cameraKind (b : Byte) : Option CameraKind :=
  match b.toNat with
  | 0x10 => some .call | 0x11 => some .jog | 0x12 => some .halt | 0x13 => some .resume | 0x14 => some .flush
  | 0x15 => some .recover | 0x16 => some .query | _ => none

/-- The kind taken at the part's address that a kind byte names. -/
def partKind (b : Byte) : Option PartKind :=
  match b.toNat with
  | 0x20 => some .tally | 0x21 => some .shotWrite | 0x22 => some .shotErase | 0x23 => some .shotRead
  | 0x24 => some .verify | 0x25 => some .limitWrite | 0x26 => some .limitRead | 0x27 => some .cameraWrite
  | 0x28 => some .cameraRead | 0x29 => some .zoneRead | 0x2A => some .zoneRelease | 0x2B => some .partQuery
  | 0x2C => some .reset | _ => none

/-- The kind taken from the heads that a kind byte names. -/
def headKind (b : Byte) : Option HeadKind :=
  match b.toNat with
  | 0x60 => some .position | 0x61 => some .alarm | 0x62 => some .manualRequest | 0x63 => some .manualRelease
  | _ => none

/-- Kind codes of the frames the part generates (R172). -/
def answerCode : Byte := 0x40
def noticeCode : Byte := 0x41
def setpointCode : Byte := 0x50
def manualGrantCode : Byte := 0x51
def manualDenyCode : Byte := 0x52

/-! ## Reading payloads (R182, R183) -/

/-- One axis's 3-byte field, when the axis is present. -/
def readAxis (isPresent : Bool) (bs : List Byte) : Option (Option Int × List Byte) :=
  if isPresent then
    match bs with
    | a :: b :: c :: rest => some (some (s24 a b c), rest)
    | _ => none
  else some (none, bs)

/-- The 3-byte fields of the axes of a mask, in axis order, as the whole of the bytes given (R181, R172). -/
def readAxes (mask : Byte) (bs : List Byte) : Option (PerAxis (Option Int)) := do
  let x ← axisSetOf mask
  let (pan, bs) ← readAxis x.pan bs
  let (tilt, bs) ← readAxis x.tilt bs
  let (zoom, bs) ← readAxis x.zoom bs
  let (focus, bs) ← readAxis x.focus bs
  let (lift, bs) ← readAxis x.lift bs
  let (travel, bs) ← readAxis x.travel bs
  if bs = [] then some ⟨pan, tilt, zoom, focus, lift, travel⟩ else none

/-- The 3-byte fields of the axes that have a value, in axis order. -/
def axesBytes (v : PerAxis (Option Int)) : List Byte :=
  v.toList.flatMap fun x => match x with | some p => be24 p | none => []

/-- The fields of a CALL (R182): 7 bytes. -/
structure CallFields where
  shot : Nat
  mode : Byte
  tag : BitVec 16
  duration : Nat
  deriving DecidableEq, Repr

/-- Reads a CALL payload; none when it is not 7 bytes long. -/
def readCall : List Byte → Option CallFields
  | [s1, s0, m, t1, t0, d1, d0] => some ⟨u16 s1 s0, m, BitVec.ofNat 16 (u16 t1 t0), u16 d1 d0⟩
  | _ => none

/-- The mode a mode byte names: 0 QUEUE, 1 NEXT, 2 CUT (R182). -/
def callModeOf (b : Byte) : Option CallMode :=
  match b.toNat with
  | 0 => some .queue | 1 => some .next | 2 => some .cut | _ => none

/-- Reads a JOG payload: an axis mask and one demand for each axis of it; none on a wrong length (R172). -/
def readJog : List Byte → Option (PerAxis (Option Int))
  | mask :: bs => readAxes mask bs
  | [] => none

/-- Reads a TALLY payload: whether each channel is on air. -/
def readTally : List Byte → Option (Chan → Bool)
  | [hi, lo] => some fun c => (u16 hi lo).testBit c.val
  | _ => none

/-- The fields of a POSITION (R183). -/
structure PositionFields where
  status : Byte
  axes : PerAxis (Option Int)
  deriving DecidableEq, Repr

/-- Reads a POSITION payload; none on a wrong length. -/
def readPosition : List Byte → Option PositionFields
  | status :: mask :: bs => (readAxes mask bs).map fun x => ⟨status, x⟩
  | _ => none

/-- The fields of a SHOT WRITE before their ranges are checked (R183). -/
structure ShotFields where
  channel : Byte
  number : Nat
  flags : Byte
  targets : PerAxis (Option Int)
  ease : Option Nat
  duration : Option Nat
  route : List Byte
  rest : List Byte
  deriving DecidableEq, Repr

/-- An optional 1-byte field. -/
def readOpt8 (isPresent : Bool) (bs : List Byte) : Option (Option Nat × List Byte) :=
  if isPresent then
    match bs with
    | b :: rest => some (some b.toNat, rest)
    | [] => none
  else some (none, bs)

/-- An optional 2-byte field. -/
def readOpt16 (isPresent : Bool) (bs : List Byte) : Option (Option Nat × List Byte) :=
  if isPresent then
    match bs with
    | a :: b :: rest => some (some (u16 a b), rest)
    | _ => none
  else some (none, bs)

/-- A count and that many bytes. -/
def readCounted : List Byte → Option (List Byte × List Byte)
  | n :: bs => if bs.length < n.toNat then none else some (bs.take n.toNat, bs.drop n.toNat)
  | [] => none

/-- Reads a SHOT WRITE payload; none when its length is not the one its flags, axis set and counts form (R6). -/
def readShot : List Byte → Option ShotFields
  | ch :: n1 :: n0 :: flags :: mask :: bs => do
    let (ease, bs) ← readOpt8 (flags.getLsbD 1) bs
    let (duration, bs) ← readOpt16 (flags.getLsbD 2) bs
    let (route, bs) ← readCounted bs
    let (rest, bs) ← readCounted bs
    let targets ← readAxes mask bs
    some ⟨ch, u16 n1 n0, flags, targets, ease, duration, route, rest⟩
  | _ => none

/-- The fields of a LIMIT WRITE before their ranges are checked. -/
structure LimitFields where
  channel : Byte
  axis : Byte
  limits : Limits
  deriving DecidableEq, Repr

/-- Reads a LIMIT WRITE payload: 22 bytes, the fields in the order of 2.3 (R172, R183). -/
def readLimit : List Byte → Option LimitFields
  | [ch, ax, a2, a1, a0, b2, b1, b0, v1, v0, m1, m0, w1, w0, l1, l0, s1, s0, f1, f0, i1, i0] =>
    some ⟨ch, ax, ⟨s24 a2 a1 a0, s24 b2 b1 b0, u16 v1 v0, u16 m1 m0, u16 w1 w0, u16 l1 l0, u16 s1 s0, u16 f1 f0,
      u16 i1 i0⟩⟩
  | _ => none

/-- The fields of a CAMERA WRITE before their ranges are checked. -/
structure CameraFields where
  channel : Byte
  link : Byte
  mask : Byte
  defaultEase : Nat
  queueLimit : Nat
  zoneWaitLimit : Nat
  settleLimit : Nat
  reportTimeout : Nat
  latency : Nat
  manualZones : List Byte
  deriving DecidableEq, Repr

/-- Reads a CAMERA WRITE payload: 11 bytes and the manual zones its count gives (R55 check 1, R172). -/
def readCamera : List Byte → Option CameraFields
  | ch :: link :: mask :: ease :: ql :: z1 :: z0 :: st :: rt :: lat :: n :: zs =>
    if zs.length = n.toNat then
      some ⟨ch, link, mask, ease.toNat, ql.toNat, u16 z1 z0, st.toNat, rt.toNat, lat.toNat, zs⟩
    else none
  | _ => none

/-! ## Writing payloads -/

/-- A shot record in SHOT WRITE order (R10, R183). -/
def shotBytes (r : Shot) : List Byte :=
  chanByte r.channel :: be16 r.number
    ++ [BitVec.ofNat 8 (r.live.toNat + 2 * r.ease.isSome.toNat + 4 * r.duration.isSome.toNat), maskByte r.targets.present]
    ++ (match r.ease with | some e => be8 e | none => [])
    ++ (match r.duration with | some d => be16 d | none => [])
    ++ be8 r.route.length ++ zoneBytes r.route ++ be8 r.rest.length ++ zoneBytes r.rest ++ axesBytes r.targets

/-- A limit record in LIMIT WRITE order (R189). -/
def limitBytes (l : Limits) : List Byte :=
  be24 l.minPos ++ be24 l.maxPos ++ be16 l.vmax ++ be16 l.amax ++ be16 l.vlive ++ be16 l.alive ++ be16 l.astop
    ++ be16 l.follow ++ be16 l.window

/-- A configuration record in CAMERA WRITE order (R189). -/
def cameraBytes (c : Chan) (r : CameraConfig) : List Byte :=
  [chanByte c, r.link, maskByte r.mask] ++ be8 r.defaultEase ++ be8 r.queueLimit ++ be16 r.zoneWaitLimit
    ++ be8 r.settleLimit ++ be8 r.reportTimeout ++ be8 r.latency.val ++ be8 r.manualZones.length ++ zoneBytes r.manualZones

end Sys2Proof.Machine
end

