-- ==== Sys2Proof/Machine/Answers.lean ====
section
/-! DEFINITION. Codes of states, outcomes and results, and the payloads of answers and notices (R184, R188 to R190). -/

namespace Sys2Proof.Machine

/-- Result codes of an answer (R184, R188). -/
inductive ResultCode where
  | ok | okParked | okDeferred | okShort | failed | badKind | badLength | badParam | notFound | tableFull
  | queueFull | callsDisabled | noShot | cameraFault | busy | notHeld | notFaulted
  deriving DecidableEq, Repr

/-- The value of a result code (R184). -/
def resultByte : ResultCode → Byte
  | .ok => 0x00 | .okParked => 0x01 | .okDeferred => 0x02 | .okShort => 0x03 | .failed => 0x04
  | .badKind => 0x10 | .badLength => 0x11 | .badParam => 0x12 | .notFound => 0x13 | .tableFull => 0x14
  | .queueFull => 0x15 | .callsDisabled => 0x16 | .noShot => 0x17 | .cameraFault => 0x18 | .busy => 0x19
  | .notHeld => 0x1A | .notFaulted => 0x1B

/-- The code of a channel state (R189). -/
def phaseByte : Phase → Byte
  | .vacant => 0 | .idle => 1 | .zoneWait _ => 2 | .moving _ => 3 | .stopping _ _ => 4 | .settling _ => 5
  | .held => 6 | .jogging _ => 7 | .manualWait _ _ => 8 | .manual _ => 9 | .fault => 10

/-- The code of a reference state (R189). -/
def refByte : RefState → Byte
  | .absent => 0 | .acquire => 1 | .locked => 2 | .flywheel => 3

/-- The code of a tally in a QUERY answer. DEDUCED (log entry 6): 1 for ON_AIR, as in the on-air set; unsafe. -/
def tallyByte : Tally → Byte
  | .offAir => 0 | .onAir => 1

/-- The number of an outcome (R184). -/
def outcomeByte : MoveOutcome → Byte
  | .arrived => 1 | .settleTimeout => 2 | .superseded => 3 | .halted => 4 | .tallyStop => 5 | .flushed => 6
  | .displaced => 7 | .noShot => 8 | .startOutside => 9 | .profileRange => 10 | .zoneTimeout => 11 | .faulted => 12

/-- The outcome of a move that a stop ends (R115). -/
def stopOutcome : StopCause → MoveOutcome
  | .halted => .halted | .superseded => .superseded | .tallyStop => .tallyStop

/-- What a channel's last completed shot and outcome read as; zeros for none (R189). -/
def lastBytes : Option (Nat × MoveOutcome) → List Byte
  | some (n, o) => be16 n ++ [outcomeByte o]
  | none => be16 0 ++ [0]

/-- What an answer says beside the kind it answers: its result and data, and the data of a second frame (R180). -/
structure Reply where
  result : ResultCode
  data : List Byte
  second : Option (List Byte)
  deriving DecidableEq, Repr

/-- An answer with a result and data. -/
def reply (r : ResultCode) (data : List Byte) : Reply := ⟨r, data, none⟩

/-- A refusal that carries no data (R188). -/
def refuse (r : ResultCode) : Reply := ⟨r, [], none⟩

/-- Reasons of entry into FAULT with their values (R69). -/
inductive FaultReason where
  | followError (a : Axis)
  | reportLoss
  | headAlarm (code : Byte)
  deriving DecidableEq, Repr

/-- Detail and value of a FAULT notice (R190). -/
def faultBytes : FaultReason → List Byte
  | .followError a => [1, BitVec.ofNat 8 a.number]
  | .reportLoss => [2, 0]
  | .headAlarm code => [3, code]

/-- Events of a CAMERA EVENT notice (R156, R190). -/
inductive CameraEvent where
  | fault (r : FaultReason)
  | manualGranted
  | manualReleased
  | manualWithdrawn
  | manualDeniedZones
  | manualDeniedFault
  deriving DecidableEq, Repr

/-- Event, detail and value of a CAMERA EVENT notice (R190). -/
def cameraEventBytes : CameraEvent → List Byte
  | .fault r => 1 :: faultBytes r
  | .manualGranted => [2, 0, 0]
  | .manualReleased => [3, 1, 0]
  | .manualWithdrawn => [3, 2, 0]
  | .manualDeniedZones => [4, 1, 0]
  | .manualDeniedFault => [4, 2, 0]

/-- The end of one cue, as its MOVE END notice reports it (R124). keep is what a completed move keeps of the
floor, its rest zones; none keeps every zone (R123). -/
structure MoveEnd where
  cue : Cue
  outcome : MoveOutcome
  clamped : Bool
  stretched : Bool
  live : Bool
  used : Nat
  cause : Option StopCause
  keep : Option (List Zone)
  deriving DecidableEq, Repr

/-- The interrupted cause of a MOVE END notice (R184). -/
def causeByte : Option StopCause → Byte
  | some c => outcomeByte (stopOutcome c)
  | none => 0

/-- The payload of a MOVE END notice (R184). DEDUCED (log entry 28, unsafe): R184 names bits 0 to 2 of the flags byte alone,
and its bits 3 to 7 are sent as 0. -/
def moveEndBytes (c : Chan) (shot : Nat) (tag : BitVec 16) (e : MoveEnd) : List Byte :=
  [1, chanByte c] ++ be16 tag.toNat ++ be16 shot
    ++ [outcomeByte e.outcome, BitVec.ofNat 8 (e.clamped.toNat + 2 * e.stretched.toNat + 4 * e.live.toNat)]
    ++ be16 e.used ++ [causeByte e.cause]

/-- The payload of a notice of a cue that left without being started (R95). DEDUCED (log entry 28, unsafe): bits 3 to 7 of
its flags byte are 0 too. -/
def unstartedBytes (c : Chan) (shot : Nat) (tag : BitVec 16) (o : MoveOutcome) : List Byte :=
  [1, chanByte c] ++ be16 tag.toNat ++ be16 shot ++ [outcomeByte o, 0] ++ be16 0 ++ [0]

/-- The payload of a CAMERA EVENT notice (R190). -/
def cameraEventPayload (c : Chan) (e : CameraEvent) : List Byte := [2, chanByte c] ++ cameraEventBytes e

/-- The payload of a PART EVENT notice (R190). -/
def partEventPayload (r : RefState) (period : Nat) : List Byte := [3, 0xFF, refByte r] ++ be16 period

/-- What a started move reports at its end: its flags and T used as the record holds them (R124). -/
def endOf (m : Move) (o : MoveOutcome) (cause : Option StopCause) (keep : Option (List Zone)) : MoveEnd where
  cue := m.cue
  outcome := o
  clamped := m.clamped
  stretched := m.stretched
  live := m.live
  used := m.dur
  cause := cause
  keep := keep

end Sys2Proof.Machine
end

