-- ==== Sys2Proof/Machine/Profile.lean ====
section
/-! DEFINITION. The Profile Engine (Profile Arithmetic): the rounding, move duration, profile positions, dither, stop
ramp and jog step, all on exact integers (R33). -/

namespace Sys2Proof.Machine

/-- The profile rounding of x / y: to nearest, halves away from zero (R35). -/
def profileRound (x : Int) (y : Nat) : Int :=
  let a := x.natAbs / y
  let b := x.natAbs % y
  let mag : Nat := if 2 * b < y then a else a + 1
  if x < 0 then -(mag : Int) else (mag : Int)

/-- The smallest integer not less than x / y (R35). -/
def ceilDiv (x y : Nat) : Nat := (x + y - 1) / y

/-- A position held to a travel. -/
def clampPos (lo hi p : Int) : Int := if p < lo then lo else if hi < p then hi else p

/-- The velocity and acceleration limits of an axis: the live rates or the ordinary ones (R34, R48). -/
def rates (l : Limits) (live : Bool) : Nat × Nat := if live then (l.vlive, l.alive) else (l.vmax, l.amax)

/-- The minimum cruise length m of an axis that moves a distance d with ease r (R36). -/
def cruiseLength (d : Int) (v a r : Nat) : Nat := max (ceilDiv d.natAbs v) (ceilDiv d.natAbs (a * r))

/-- The largest of a list of numbers, 0 for none. -/
def listMax (xs : List Nat) : Nat := xs.foldr max 0

/-- The moved axes with a distance that is not 0. -/
def movingAxes (moved : AxisSet) (dist : PerAxis Int) : List Axis :=
  allAxes.filter fun a => moved.get a && dist.get a != 0

/-- Tmin: the ease and the largest cruise length over the axes that move (R36). -/
def shortest (limits : PerAxis Limits) (live : Bool) (moved : AxisSet) (dist : PerAxis Int) (r : Nat) : Nat :=
  r + listMax ((movingAxes moved dist).map fun a =>
    cruiseLength (dist.get a) (rates (limits.get a) live).1 (rates (limits.get a) live).2 r)

/-- The profile numerator N(k) (R40). -/
def numerator (r t k : Nat) : Int :=
  let w : Int := (t : Int) - r
  if k ≤ r then (k : Int) * k
  else if (k : Int) ≤ w then 2 * r * k - r * r
  else 2 * r * w - ((t : Int) - k) * ((t : Int) - k)

/-- The profile position P(k) of an axis (R41). -/
def profilePos (m : Move) (a : Axis) (k : Nat) : Int :=
  m.start.get a + profileRound (m.dist.get a * numerator m.ease m.dur k) m.q

/-- The four sub-points of a field from p to p' (R43): the larger sub-steps first. -/
def dither (p p' : Int) : List Int :=
  let d := p' - p
  let q := d.natAbs / 4
  let r := d.natAbs % 4
  let sub (i : Nat) : Int := if i < r then (q : Int) + 1 else q
  let sgn : Int := if d < 0 then -1 else 1
  [p + sgn * sub 0, p + sgn * (sub 0 + sub 1), p + sgn * (sub 0 + sub 1 + sub 2),
   p + sgn * (sub 0 + sub 1 + sub 2 + sub 3)]

/-- The velocity an axis has when a stop begins at field k: P(k) - P(k - 1), or 0 at k = 0 (R44). -/
def stopVelocity (m : Move) (a : Axis) : Int :=
  if m.field = 0 then 0 else profilePos m a m.field - profilePos m a (m.field - 1)

/-- The stop record formed from a move record as it stands (R44). -/
def formStop (limits : PerAxis Limits) (m : Move) (cause : StopCause) : Stop where
  base := .ofFn fun a => if m.moved.get a then profilePos m a m.field else 0
  vel := .ofFn fun a => if m.moved.get a then stopVelocity m a else 0
  rs := listMax ((allAxes.filter m.moved.get).map fun a => ceilDiv (stopVelocity m a).natAbs (limits.get a).astop)
  step := 0
  cause := cause

/-- The stop position of step j of an axis, clamped to its travel; the base at step 0 (R45). -/
def stopPos (l : Limits) (st : Stop) (a : Axis) (j : Nat) : Int :=
  if j = 0 then st.base.get a
  else clampPos l.minPos l.maxPos
    (st.base.get a + profileRound (st.vel.get a * j * (2 * (st.rs : Int) - j)) (2 * st.rs))

/-- The jog velocity after one step toward the clamped demand (R48, R49). -/
def jogVelocity (l : Limits) (tally : Tally) (ja : JogAxis) : Int :=
  let v : Int := (rates l (tally == .onAir)).1
  let acc : Int := (rates l (tally == .onAir)).2
  let demand := clampPos (-v) v ja.demand
  if (demand - ja.velocity).natAbs ≤ acc.natAbs then demand
  else if ja.velocity < demand then ja.velocity + acc else ja.velocity - acc

/-- The limit stops of a jog step from position p with velocity u: the new position and velocity (R50). -/
def jogStops (l : Limits) (p u : Int) : Int × Int :=
  let x := p + u
  let (x, u) := if l.maxPos < x ∧ p ≤ l.maxPos then (l.maxPos, 0)
    else if x < l.minPos ∧ l.minPos ≤ p then (l.minPos, 0) else (x, u)
  if (l.maxPos < p ∧ 0 < u) ∨ (p < l.minPos ∧ u < 0) then (p, 0) else (x, u)

/-- One jog step of one axis: the new position and the axis's new demand and velocity (R48 to R50). -/
def jogStep (l : Limits) (tally : Tally) (p : Int) (ja : JogAxis) : Int × JogAxis :=
  let r := jogStops l p (jogVelocity l tally ja)
  (r.1, { ja with velocity := r.2 })

end Sys2Proof.Machine
end

