-- ==== Sys2Proof/Machine/Ops.lean ====
section
/-! DEFINITION. The shared operations of the blocks: channel access, the Outbound Queue, the forward queues and lists,
the cue pool and the Park Order, the Zone Arbiter's walk, and the end of a move. -/

namespace Sys2Proof.Machine

/-! ## Channels -/

/-- One channel. -/
def State.chan (s : State) (c : Chan) : Channel := s.channels.get c

/-- The part with one channel replaced. -/
def State.setChan (s : State) (c : Chan) (ch : Channel) : State :=
  { s with channels := s.channels.set c.val ch c.isLt }

/-- The part with one channel changed. -/
def State.modChan (s : State) (c : Chan) (f : Channel → Channel) : State := s.setChan c (f (s.chan c))

/-- Whether a channel is mapped: in any state other than VACANT (R53). -/
def mapped (ch : Channel) : Bool := ch.phase != .vacant

/-- Whether a state belongs to the motion set (R53). -/
def inMotion : Phase → Bool
  | .zoneWait _ | .moving _ | .stopping _ _ | .settling _ | .jogging _ => true
  | _ => false

/-- The move record of a state, where it has one (R99). -/
def moveOf : Phase → Option Move
  | .zoneWait m | .moving m | .stopping m _ | .settling m => some m
  | _ => none

/-- The mapped channel that holds a link address (R173). -/
def State.channelAt (s : State) (addr : Byte) : Option Chan :=
  allChans.find? fun c => mapped (s.chan c) && (s.chan c).config.link == addr

/-- The state a post-state or return state names. -/
def restPhase : RestState → Phase
  | .idle => .idle
  | .held => .held

/-! ## Outbound Queue (R185 to R187) -/

/-- Free entries of the Outbound Queue: neither occupied nor reserved (R185). -/
def State.outFree (s : State) : Nat := Config.outboundCapacity - (s.out.entries.length + s.out.reserved)

/-- An ANSWER frame (R188). -/
def answerFrame (s : State) (kind : Byte) (r : ResultCode) (data : List Byte) : Frame :=
  ⟨Config.controllerAddress, s.partAddress, answerCode, kind :: resultByte r :: data⟩

/-- A NOTICE frame (R190). -/
def noticeFrame (s : State) (payload : List Byte) : Frame :=
  ⟨Config.controllerAddress, s.partAddress, noticeCode, payload⟩

/-- Queues a notice, or discards it and sets the notice-lost flag when no entry is free (R187). -/
def notice (payload : List Byte) (s : State) : State :=
  if s.outFree = 0 then { s with out := { s.out with noticeLost := true } }
  else { s with out := { s.out with entries := s.out.entries ++ [⟨noticeFrame s payload, none⟩] } }

/-- The Outbound Queue entry of an answer. -/
def answerEntry (s : State) (kind : Byte) (r : Reply) : OutEntry :=
  ⟨answerFrame s kind r.result r.data, r.second.map fun d => answerFrame s kind r.result d⟩

/-- Reserves one entry (R186). -/
def reserve (s : State) : State := { s with out := { s.out with reserved := s.out.reserved + 1 } }

/-- The answer fills the entry reserved for it (R186). -/
def fillAnswer (kind : Byte) (r : Reply) (s : State) : State :=
  { s with out := { s.out with
      reserved := s.out.reserved - 1
      entries := s.out.entries ++ [answerEntry s kind r] } }

/-- Executes a frame that requires an answer: discarded whole when no entry is free, otherwise executed with an
entry reserved that its answer then fills (R186). -/
def answered (kind : Byte) (body : State → State × Reply) (s : State) : State :=
  if s.outFree = 0 then s
  else
    let r := body (reserve s)
    fillAnswer kind r.2 r.1

/-! ## Forward queues and the head control list (R176, R178) -/

/-- A frame joins the downstream forward queue, or is discarded when it is full. -/
def forwardDown (f : Frame) (s : State) : State :=
  if s.link.downstream.length < Config.downstreamCapacity then
    { s with link := { s.link with downstream := s.link.downstream ++ [f] } }
  else s

/-- A frame joins the upstream forward queue, or is discarded when it is full. -/
def forwardUp (f : Frame) (s : State) : State :=
  if s.link.upstream.length < Config.upstreamCapacity then
    { s with link := { s.link with upstream := s.link.upstream ++ [f] } }
  else s

/-- A generated frame joins the head control list, or is discarded when it is full. -/
def pushHead (f : Frame) (s : State) : State :=
  if s.link.headControl.length < Config.headControlCapacity then
    { s with link := { s.link with headControl := s.link.headControl ++ [f] } }
  else s

/-- MANUAL GRANT to a channel's head (R154, R170). -/
def sendGrant (c : Chan) (s : State) : State :=
  pushHead ⟨(s.chan c).config.link, s.partAddress, manualGrantCode, []⟩ s

/-- MANUAL DENY to a channel's head, with reason 1 ZONES or 2 FAULT (R190). -/
def sendDeny (c : Chan) (reason : Byte) (s : State) : State :=
  pushHead ⟨(s.chan c).config.link, s.partAddress, manualDenyCode, [reason]⟩ s

/-! ## Setpoint batch (R112, R177) -/

/-- The mode byte of a setpoint frame (R183). -/
def setpointFrame (s : State) (c : Chan) (mode : Byte) (points : PerAxis (Option (List Int))) : Frame :=
  ⟨(s.chan c).config.link, s.partAddress, setpointCode,
    mode :: maskByte points.present :: points.toList.flatMap fun x => match x with
      | some ps => ps.flatMap be24
      | none => []⟩

/-- A channel adds its setpoint frame to the batch of the field event it takes: the current batch, or the one the
Head Port opens when it has not yet taken that field event (R160, R177). -/
def emit (c : Chan) (f : Frame) (s : State) : State :=
  if s.monitor.headDue then
    { s with link := { s.link with nextBatch := s.link.nextBatch.set c.val (some ⟨f, false⟩) c.isLt } }
  else { s with link := { s.link with batch := s.link.batch.set c.val (some ⟨f, false⟩) c.isLt } }

/-! ## Limits in and out of the motion set (R22, R26) -/

/-- The live-rate clamp of a record as it is stored (R22). -/
def clampLive (l : Limits) : Limits := { l with vlive := min l.vlive l.vmax, alive := min l.alive l.amax }

/-- Applies every pending limit record of a channel (R26). -/
def applyPending (ch : Channel) : Channel :=
  { ch with
    limits := .ofFn fun a => match ch.pendingLimits.get a with
      | some l => clampLive l
      | none => ch.limits.get a
    pendingLimits := .all none }

/-- A channel's transition to a state, which applies its pending limit records when it leaves the motion set (R26). -/
def toPhase (p : Phase) (ch : Channel) : Channel :=
  { (if inMotion ch.phase && !inMotion p then applyPending ch else ch) with phase := p }

/-- A channel's entry into the motion set, which sets every following-error count to 0 (R66). -/
def intoMotion (p : Phase) (ch : Channel) : Channel := { ch with phase := p, followErrors := .all 0 }

/-- The commanded position of every axis becomes its reported position, and the histories with it (R64). -/
def takeReported (ch : Channel) : Channel :=
  { ch with
    commanded := ch.reported
    history := .ofFn fun a => History.fill (ch.reported.get a) }

/-! ## Cue Manager (R80 to R95) -/

/-- Where a mode places a cue in a queue (R87, R91). A parked CUT meets an empty queue (DEDUCED, log entry 16). -/
def placeCue (mode : CallMode) (q : Cue) (queue : List Cue) : List Cue :=
  match mode with
  | .queue => queue ++ [q]
  | .next => q :: queue
  | .cut => q :: queue

/-- A call takes an entry and joins its channel's queue with the next admission rank (R87, R91). -/
def admitCall (call : ParkedCall) (ch : Channel) : Channel :=
  { ch with
    queue := placeCue call.mode ⟨call.shot, call.tag, call.override, ch.nextRank⟩ ch.queue
    nextRank := ch.nextRank + 1 }

/-- The parked call of a channel is admitted into an entry, and the channel leaves the Park Order (R91). -/
def admitParked (c : Chan) (call : ParkedCall) (s : State) : State :=
  let s := { s with parkOrder := s.parkOrder.erase c }
  s.modChan c fun ch => { admitCall call ch with parked := none }

/-- An entry joins the free list (R91). -/
def freeEntry (s : State) : State := { s with poolFree := s.poolFree + 1 }

/-- Releases an entry: to the oldest channel of the Park Order, passing over the channel whose queue is flushed,
or to the free list when there is none (R91). -/
def releaseEntry (flushing : Option Chan) (s : State) : State :=
  match s.parkOrder.find? fun c => some c != flushing with
  | some c =>
    match (s.chan c).parked with
    | some call => admitParked c call s
    | none => freeEntry s
  | none => freeEntry s

/-- Queues the notice of a cue that left without being started (R95). -/
def unstarted (c : Chan) (shot : Nat) (tag : BitVec 16) (o : MoveOutcome) (s : State) : State :=
  notice (unstartedBytes c shot tag o) s

/-- Puts a cue into a list ordered by admission rank. -/
def insertByRank (q : Cue) : List Cue → List Cue
  | [] => [q]
  | x :: xs => if q.rank ≤ x.rank then q :: x :: xs else x :: insertByRank q xs

/-- The cues of a queue, oldest admission rank first (R91). -/
def byRank (qs : List Cue) : List Cue := qs.foldr insertByRank []

/-- Releases every queued entry of a channel, oldest admission rank first, each noticed FLUSHED (R89, R94). -/
def flushQueue (c : Chan) (s : State) : State :=
  let qs := byRank (s.chan c).queue
  let s := s.modChan c fun ch => { ch with queue := [] }
  qs.foldl (fun s q => releaseEntry (some c) (unstarted c q.shot q.tag .flushed s)) s

/-- Displaces the parked call of a channel, noticed DISPLACED (R89, R94, R95). -/
def displaceParked (c : Chan) (s : State) : State :=
  match (s.chan c).parked with
  | none => s
  | some call =>
    let s := { s.modChan c (fun ch => { ch with parked := none }) with parkOrder := s.parkOrder.erase c }
    unstarted c call.shot call.tag .displaced s

/-! ## Zone Arbiter (R126 to R135) -/

/-- Whether a zone is satisfied or available to a channel under a reserved set (R129). -/
def zoneGrantable (owners : Vector (Option Chan) 24) (reserved : List Zone) (c : Chan) (z : Zone) : Bool :=
  match owners.get z with
  | some o => o == c
  | none => !reserved.contains z

/-- A channel takes ownership of zones (R129). -/
def ownZones (owners : Vector (Option Chan) 24) (c : Chan) (zs : List Zone) : Vector (Option Chan) 24 :=
  zs.foldl (fun o z => o.set z.val (some c) z.isLt) owners

/-- One pass over waiters, oldest first (R129): the owners after it, the waiters that stay and those granted. -/
def walkPass (owners : Vector (Option Chan) 24) (reserved : List Zone) :
    List Waiter → Vector (Option Chan) 24 × List Waiter × List Waiter
  | [] => (owners, [], [])
  | w :: ws =>
    if w.zones.all (zoneGrantable owners reserved w.channel) then
      let r := walkPass (ownZones owners w.channel w.zones) reserved ws
      (r.1, r.2.1, w :: r.2.2)
    else
      let r := walkPass owners (reserved ++ w.zones) ws
      (r.1, w :: r.2.1, r.2.2)

/-- The zones a channel owns, in ascending order. -/
def State.zonesOf (s : State) (c : Chan) : List Zone := allZones.filter fun z => s.floor.owners.get z == some c

/-- Frees zones (R134 to R136). -/
def freeZones (zs : List Zone) (s : State) : State :=
  { s with floor := { s.floor with owners := zs.foldl (fun o z => o.set z.val none z.isLt) s.floor.owners } }

/-- Removes a channel's waiter from the Zone Wait List (R132). -/
def dropWaiter (c : Chan) (s : State) : State :=
  { s with floor := { s.floor with waiters := s.floor.waiters.filter fun w => w.channel != c } }

/-- Appends a waiter as the newest (R128). -/
def addWaiter (w : Waiter) (s : State) : State :=
  { s with floor := { s.floor with waiters := s.floor.waiters ++ [w] } }

/-- The floor part of a move end: a completed move keeps its rest zones, frees every other zone its channel owns,
and runs the walk when it freed any (R123, R134). -/
def settleFloor (walk : State → State) (c : Chan) (keep : Option (List Zone)) (s : State) : State :=
  match keep with
  | none => s
  | some rest =>
    match (s.zonesOf c).filter fun z => !rest.contains z with
    | [] => s
    | z :: zs => walk (freeZones (z :: zs) s)

/-- Entry into MANUAL_WAIT with a return state: the flag is cleared, the count is 0 and the manual zones are
requested (R152). -/
def enterManualWait (walk : State → State) (c : Chan) (ret : RestState) (s : State) : State :=
  let zones := (s.chan c).config.manualZones
  let s := s.modChan c fun ch => { toPhase (.manualWait ret 0) ch with manualPending := false }
  walk (addWaiter ⟨c, .manual, zones⟩ s)

/-- A channel enters IDLE or HELD; in HELD a set manual-pending flag is served at once (R122, R152). -/
def enterRest (walk : State → State) (c : Chan) (r : RestState) (s : State) : State :=
  let s := s.modChan c (toPhase (restPhase r))
  if r = .held && (s.chan c).manualPending then enterManualWait walk c .held s else s

/-- Where a move end leaves its channel: a post-state, or FAULT (R122). -/
inductive MoveExit where
  | rest (r : RestState)
  | fault
  deriving DecidableEq, Repr

/-- The end of a move (R122): its notice, the last completed shot, the release of the entry, the floor, and the
state its channel enters. walk is what runs where the rules run the walk. -/
def moveEnd (walk : State → State) (c : Chan) (e : MoveEnd) (exit : MoveExit) (s : State) : State :=
  let s := notice (moveEndBytes c e.cue.shot e.cue.tag e) s
  let s := s.modChan c fun ch => { ch with last := some (e.cue.shot, e.outcome) }
  let s := releaseEntry none s
  let s := settleFloor walk c e.keep s
  match exit with
  | .rest r => enterRest walk c r s
  | .fault => s.modChan c (toPhase .fault)

/-- A channel takes a grant of the walk (R108, R154). -/
def takeGrant (walk : State → State) (s : State) (w : Waiter) : State :=
  match (s.chan w.channel).phase with
  | .zoneWait m =>
    if m.dur = 0 then moveEnd walk w.channel (endOf m .arrived none (some m.shot.rest)) (.rest m.post) s
    else s.modChan w.channel (toPhase (.moving { m with field := 0 }))
  | .manualWait ret _ =>
    let s := sendGrant w.channel s
    let s := notice (cameraEventPayload w.channel .manualGranted) s
    s.modChan w.channel (toPhase (.manual ret))
  | _ => s

/-- The walk with its handovers, each of which may run a further walk before the next (R129, R130). The first
argument bounds the nesting: each nested walk follows a grant, which shortens the list. -/
def walkN : Nat → State → State
  | 0, s => s
  | n + 1, s =>
    let r := walkPass s.floor.owners [] s.floor.waiters
    r.2.2.foldl (takeGrant (walkN n)) { s with floor := ⟨r.1, r.2.1⟩ }

/-- The walk (R130). Nesting beyond the length of the list cannot arise. -/
def walk (s : State) : State := walkN (s.floor.waiters.length + 1) s

/-- Ends a move from ZONE_WAIT by an event other than a grant: the channel is withdrawn, the move ends, and the
walk runs (R107, R132). DESIGN CHOICE (log entry 5): the walk stands after the move end; unsafe. -/
def withdrawMove (walk : State → State) (c : Chan) (m : Move) (o : MoveOutcome) (exit : MoveExit) (s : State) : State :=
  walk (moveEnd walk c (endOf m o none none) exit (dropWaiter c s))

/-- Entry into STOPPING from MOVING, or the end of the move where the ramp has no step (R114, R46). -/
def enterStopping (walk : State → State) (c : Chan) (m : Move) (cause : StopCause) (post : RestState) (s : State) : State :=
  let st := formStop (s.chan c).limits m cause
  if st.rs = 0 then moveEnd walk c (endOf m (stopOutcome cause) none none) (.rest post) s
  else s.modChan c fun ch => { ch with phase := .stopping { m with post := post } st }

/-- The state's own work ends at entry into FAULT (R70, step 1). -/
def endForFault (c : Chan) (s : State) : State :=
  match (s.chan c).phase with
  | .zoneWait m => withdrawMove walk c m .faulted .fault s
  | .moving m => moveEnd walk c (endOf m .faulted none none) .fault s
  | .stopping m st => moveEnd walk c (endOf m .faulted (some st.cause) none) .fault s
  | .settling m => moveEnd walk c (endOf m .faulted none none) .fault s
  | .manualWait _ _ => (sendDeny c 2 (walk (dropWaiter c s))).modChan c (toPhase .fault)
  | _ => s.modChan c (toPhase .fault)

/-- Entry into FAULT from any mapped state but FAULT (R70). -/
def enterFault (c : Chan) (r : FaultReason) (s : State) : State :=
  let s := endForFault c s
  let s := if (s.chan c).manualPending then
      sendDeny c 2 (s.modChan c fun ch => { ch with manualPending := false })
    else s
  let s := s.modChan c fun ch => if ch.valid then takeReported ch else ch
  notice (cameraEventPayload c (.fault r)) s

end Sys2Proof.Machine
end

