-- ==== Sys2Proof/Machine/ShotTable.lean ====
section
/-! DEFINITION. The Shot Table: the directory, SHOT WRITE, SHOT ERASE, SHOT READ and VERIFY (R1 to R18). -/

namespace Sys2Proof.Machine

/-! ## The directory (R1) -/

/-- Whether a record is the one of a key. -/
def hasKey (c : Chan) (n : Nat) (r : Shot) : Bool := r.channel == c && r.number == n

/-- The record of a key. -/
def State.findShot (s : State) (c : Chan) (n : Nat) : Option Shot := s.shots.find? (hasKey c n)

/-- The order of the directory: by channel, then by shot number. -/
def shotBefore (x y : Shot) : Bool := x.channel < y.channel || (x.channel == y.channel && x.number < y.number)

/-- Removes the record of a key (R9). -/
def eraseShot (c : Chan) (n : Nat) (rs : List Shot) : List Shot := rs.filter fun r => !hasKey c n r

/-- Adds a record in its place in the order of the directory. -/
def insertShot (r : Shot) : List Shot → List Shot
  | [] => [r]
  | x :: xs => if shotBefore r x then r :: x :: xs else x :: insertShot r xs

/-- Adds a record, in place of the record of its key where there is one (R7, R8). -/
def putShot (r : Shot) (rs : List Shot) : List Shot := insertShot r (eraseShot r.channel r.number rs)

/-- The records of a channel from a shot number upward, in ascending order (R11, R15). -/
def State.shotsFrom (s : State) (c : Chan) (n : Nat) : List Shot :=
  s.shots.filter fun r => r.channel == c && n ≤ r.number

/-! ## SHOT WRITE (R6 to R8) -/

/-- A shot number in range (R1). -/
def shotNumberOk (n : Nat) : Bool := 1 ≤ n && n ≤ 999

/-- The shot record a SHOT WRITE carries, when no condition of R6 refuses it. -/
def shotOf (f : ShotFields) : Option Shot :=
  match chanOf f.channel, zonesOf f.route, zonesOf f.rest with
  | some c, some route, some rest =>
    if shotNumberOk f.number && f.flags.toNat < 8 && f.ease != some 0
        && (match f.duration with | some d => 2 ≤ d && d ≤ Config.maxDuration | none => true)
        && route.length ≤ 8 && rest.length ≤ 4 && decide route.Nodup && decide rest.Nodup then
      some { channel := c, number := f.number, live := f.flags.getLsbD 0, targets := f.targets, ease := f.ease,
             duration := f.duration, route := route, rest := rest }
    else none
  | _, _, _ => none

/-- Executes a SHOT WRITE: its checks, then the write (R6 to R8). -/
def shotWriteBody (payload : List Byte) (s : State) : State × Reply :=
  match readShot payload with
  | none => (s, refuse .badLength)
  | some f =>
    match shotOf f with
    | none => (s, refuse .badParam)
    | some r =>
      let found := (s.findShot r.channel r.number).isSome
      if !found && Config.shotCapacity ≤ s.shots.length then (s, refuse .tableFull)
      else
        let s := { s with shots := putShot r s.shots }
        (s, reply .ok ([chanByte r.channel] ++ be16 r.number ++ flagByte found ++ be16 s.shots.length))

/-! ## SHOT ERASE (R9) -/

/-- Executes a SHOT ERASE. -/
def shotEraseBody (payload : List Byte) (s : State) : State × Reply :=
  match payload with
  | [ch, n1, n0] =>
    match chanOf ch with
    | none => (s, refuse .badParam)
    | some c =>
      let n := u16 n1 n0
      if !shotNumberOk n then (s, refuse .badParam)
      else if (s.findShot c n).isNone then (s, refuse .notFound)
      else
        let s := { s with shots := eraseShot c n s.shots }
        (s, reply .ok ([chanByte c] ++ be16 n ++ be16 s.shots.length))
  | _ => (s, refuse .badLength)

/-! ## SHOT READ (R10, R11) -/

/-- The answer that returns a record, or NOT_FOUND. -/
def shotAnswer : Option Shot → Reply
  | some r => reply .ok (shotBytes r)
  | none => refuse .notFound

/-- The answer to a SHOT READ: the exact key with the next flag clear, the smallest shot number at or above the one
given with it set. -/
def shotReadReply (payload : List Byte) (s : State) : Reply :=
  match payload with
  | [ch, n1, n0, next] =>
    match chanOf ch with
    | none => refuse .badParam
    | some c =>
      let n := u16 n1 n0
      if !shotNumberOk n then refuse .badParam
      else if next = 0 then shotAnswer (s.findShot c n)
      else if next = 1 then shotAnswer (s.shotsFrom c n).head?
      else refuse .badParam
  | _ => refuse .badLength

/-! ## VERIFY (R15 to R18) -/

/-- Check codes of VERIFY (R16). -/
inductive CheckCode where
  | none | axis | limit | ease | zones
  deriving DecidableEq, Repr

/-- The value of a check code (R16). -/
def checkByte : CheckCode → Byte
  | .none => 0 | .axis => 1 | .limit => 2 | .ease => 3 | .zones => 4

/-- Whether a position lies outside a travel. -/
def outside (l : Limits) (p : Int) : Bool := p < l.minPos || l.maxPos < p

/-- The first check a record fails, in the order of R16. -/
def checkShot (ch : Channel) (r : Shot) : CheckCode :=
  if allAxes.any fun a => r.targets.present.get a && !ch.config.mask.get a then .axis
  else if allAxes.any fun a => match r.targets.get a with
      | some t => outside (ch.limits.get a) t
      | none => false then .limit
  else if (match r.ease, r.duration with | some e, some d => decide (d < 2 * e) | _, _ => false) then .ease
  else if r.route.any fun z => r.rest.contains z then .zones
  else .none

/-- The first failing record of a walk set, with its check code and the count not verified (R17). -/
def firstFailure (ch : Channel) : List Shot → Option (Shot × CheckCode × Nat)
  | [] => none
  | r :: rs =>
    if checkShot ch r = .none then firstFailure ch rs else some (r, checkShot ch r, rs.length + 1)

/-- The walk set of a VERIFY: the first n records from a shot number upward, or all of them when n is 0 (R15). -/
def walkSet (s : State) (c : Chan) (first n : Nat) : List Shot :=
  if n = 0 then s.shotsFrom c first else (s.shotsFrom c first).take n

/-- The answer to a VERIFY whose parameters are in range (R17, R18). -/
def verifyReply (s : State) (c : Chan) (first n : Nat) : Reply :=
  let set := walkSet s c first n
  match firstFailure (s.chan c) set with
  | some (r, code, left) =>
    reply .failed ([chanByte c] ++ be16 r.number ++ [checkByte code] ++ be16 left)
  | none =>
    if n = 0 ∨ set.length = n then reply .ok ([chanByte c] ++ be16 0 ++ [checkByte .none] ++ be16 0)
    else reply .okShort ([chanByte c] ++ be16 0 ++ [checkByte .none] ++ be16 set.length)

/-- The answer to a VERIFY (R15). -/
def verifyAnswer (payload : List Byte) (s : State) : Reply :=
  match payload with
  | [ch, s1, s0, n1, n0] =>
    match chanOf ch with
    | none => refuse .badParam
    | some c =>
      if shotNumberOk (u16 s1 s0) && u16 n1 n0 ≤ 999 then verifyReply s c (u16 s1 s0) (u16 n1 n0)
      else refuse .badParam
  | _ => refuse .badLength

end Sys2Proof.Machine
end

