-- ==== Sys2Proof/Machine/CueManager.lean ====
section
/-! DEFINITION. The Cue Manager's frames: CALL in its three modes and FLUSH (R84 to R95). -/

namespace Sys2Proof.Machine

/-- Whether a channel holds an active cue: exactly while it has a move record (R99). -/
def hasActive (ch : Channel) : Bool := (moveOf ch.phase).isSome

/-- The checks of a CALL, in order (R85): its mode, or the refusal. -/
def callCheck (s : State) (c : Chan) (f : CallFields) : Except ResultCode CallMode :=
  let ch := s.chan c
  if ch.phase = .fault then .error .cameraFault
  else
    match callModeOf f.mode with
    | none => .error .badParam
    | some mode =>
      if f.duration = 1 ∨ Config.maxDuration < f.duration then .error .badParam
      else if (s.findShot c f.shot).isNone then .error .noShot
      else if mode = .cut then .ok .cut
      else if ch.config.queueLimit = 0 then .error .callsDisabled
      else if ch.config.queueLimit ≤ ch.queue.length
          ∨ Config.queueCapacity ≤ ch.queue.length + (hasActive ch).toNat then .error .queueFull
      else .ok mode

/-- The values a CALL admits; a duration of 0 is no override (R85). -/
def callValues (f : CallFields) (mode : CallMode) : ParkedCall :=
  ⟨f.shot, f.tag, if f.duration = 0 then none else some f.duration, mode⟩

/-- A call takes a free entry (R87). -/
def takeEntry (c : Chan) (call : ParkedCall) (s : State) : State :=
  { s with poolFree := s.poolFree - 1 }.modChan c (admitCall call)

/-- A call is parked in an empty slot, its channel last in the Park Order (R88). -/
def parkCall (c : Chan) (call : ParkedCall) (s : State) : State :=
  { s.modChan c (fun ch => { ch with parked := some call }) with parkOrder := s.parkOrder ++ [c] }

/-- A call replaces the parked call, which is noticed DISPLACED (R86). -/
def replaceParked (c : Chan) (old call : ParkedCall) (s : State) : State :=
  (unstarted c old.shot old.tag .displaced s).modChan c fun ch => { ch with parked := some call }

/-- Takes an entry for a call, or parks it when the pool has none (R87, R88, R89 step 3). -/
def takeOrPark (c : Chan) (call : ParkedCall) (s : State) : State × ResultCode :=
  if s.poolFree = 0 then (parkCall c call s, .okParked) else (takeEntry c call s, .ok)

/-- Admission of a QUEUE or NEXT call (R86 to R88). -/
def admitQueueNext (c : Chan) (call : ParkedCall) (s : State) : State × ResultCode :=
  match (s.chan c).parked with
  | some old => (replaceParked c old call s, .okParked)
  | none => takeOrPark c call s

/-- Step 4 of a CUT: it acts on the present move (R90). -/
def cutMove (c : Chan) (s : State) : State :=
  match (s.chan c).phase with
  | .moving m => enterStopping walk c m .superseded .idle s
  | .zoneWait m => withdrawMove walk c m .superseded (.rest .idle) s
  | _ => s

/-- Admission of a CUT: its queue work and then its work on the present move (R89, R90). -/
def admitCut (c : Chan) (call : ParkedCall) (s : State) : State × ResultCode :=
  let r := takeOrPark c call (flushQueue c (displaceParked c s))
  (cutMove c r.1, r.2)

/-- Channel and call tag, which every CALL answer carries (R85). -/
def callHead (c : Chan) (f : CallFields) : List Byte := chanByte c :: be16 f.tag.toNat

/-- What an OK or OK_PARKED answer carries further (R85, R189). -/
def callTail (c : Chan) (s : State) : List Byte :=
  be8 (s.chan c).queue.length ++ be8 s.poolFree ++ flagByte (s.chan c).parked.isSome

/-- Executes a CALL taken by a channel (R84 to R90). -/
def callBody (c : Chan) (payload : List Byte) (s : State) : State × Reply :=
  match readCall payload with
  | none => (s, refuse .badLength)
  | some f =>
    match callCheck s c f with
    | .error r => (s, reply r (callHead c f))
    | .ok mode =>
      let call := callValues f mode
      let r := if mode = .cut then admitCut c call s else admitQueueNext c call s
      (r.1, reply r.2 (callHead c f ++ callTail c r.1))

/-- Executes a FLUSH (R94). -/
def flushBody (c : Chan) (s : State) : State × Reply :=
  let ch := s.chan c
  (displaceParked c (flushQueue c s),
    reply .ok ([chanByte c] ++ be8 ch.queue.length ++ flagByte ch.parked.isSome))

end Sys2Proof.Machine
end

