-- ==== Sys2Proof/Machine/Cameras.lean ====
section
/-! DEFINITION. Camera Channels: CAMERA WRITE and CAMERA READ, HALT, RESUME, RECOVER, QUERY, TALLY, and the POSITION
and ALARM frames of a channel's head (R54 to R79). -/

namespace Sys2Proof.Machine

/-! ## CAMERA WRITE (R55 to R59) and CAMERA READ (R61) -/

/-- The states in which a channel's records and zones may be written: not in motion nor in a handover (R55, R136). -/
def writable : Phase → Bool
  | .vacant | .idle | .held | .fault => true
  | _ => false

/-- Whether a link address is the part's own or another channel's (R55, check 4). -/
def linkTaken (s : State) (c : Chan) (link : Byte) : Bool :=
  link != 0 && (link == s.partAddress || allChans.any fun d => d != c && (s.chan d).config.link == link)

/-- The configuration record a CAMERA WRITE carries, when no condition of check 5 refuses it; its queue limit is
as written (R55). -/
def cameraOf (f : CameraFields) : Option CameraConfig :=
  match axisSetOf f.mask, zonesOf f.manualZones with
  | some mask, some zones =>
    if h : f.latency < 8 then
      if f.link.toNat ≤ 30 && f.defaultEase != 0 && f.zoneWaitLimit ≤ Config.maxWaitCount && f.settleLimit != 0
          && f.reportTimeout != 0 && zones.length ≤ 8 && decide zones.Nodup then
        some { link := f.link, mask := mask, defaultEase := f.defaultEase, queueLimit := f.queueLimit,
               zoneWaitLimit := f.zoneWaitLimit, settleLimit := f.settleLimit, reportTimeout := f.reportTimeout,
               latency := ⟨f.latency, h⟩, manualZones := zones }
      else none
    else none
  | _, _ => none

/-- A VACANT channel is mapped (R57). -/
def mapChannel (r : CameraConfig) (ch : Channel) : Channel :=
  { ch with
    config := r
    phase := .idle
    valid := false
    history := .all (History.fill 0)
    snapshot := .zero
    followErrors := .all 0
    reportAge := 0
    headStatus := 0
    manualPending := false
    last := none }

/-- A mapped channel stays mapped with a new record (R58). -/
def rewriteChannel (r : CameraConfig) (ch : Channel) : Channel :=
  if r.link = ch.config.link then { ch with config := r }
  else { ch with config := r, valid := false, reportAge := 0, headStatus := 0 }

/-- The transition of an unmapped channel to VACANT (R59, step 4). -/
def vacate (r : CameraConfig) (ch : Channel) : Channel :=
  { ch with
    config := r
    phase := .vacant
    valid := false
    manualPending := false
    last := none
    followErrors := .all 0
    reportAge := 0
    fieldDue := false }

/-- Unmaps a channel: its queue, its parked call, its zones with a walk, and VACANT (R59). -/
def unmapChannel (c : Chan) (r : CameraConfig) (s : State) : State :=
  let s := displaceParked c (flushQueue c s)
  let s := walk (freeZones (s.zonesOf c) s)
  s.modChan c (vacate r)

/-- Stores an accepted configuration record (R55, R57 to R59). -/
def storeCamera (c : Chan) (r : CameraConfig) (s : State) : State :=
  match decide (r.link = 0), mapped (s.chan c) with
  | true, true => unmapChannel c r s
  | true, false => s.modChan c fun ch => { ch with config := r }
  | false, false => s.modChan c (mapChannel r)
  | false, true => s.modChan c (rewriteChannel r)

/-- Executes a CAMERA WRITE: its six checks, then the write (R55, R56). -/
def cameraWriteBody (payload : List Byte) (s : State) : State × Reply :=
  match readCamera payload with
  | none => (s, refuse .badLength)
  | some f =>
    match chanOf f.channel with
    | none => (s, refuse .badParam)
    | some c =>
      if !writable (s.chan c).phase then (s, refuse .busy)
      else if linkTaken s c f.link then (s, refuse .badParam)
      else
        match cameraOf f with
        | none => (s, refuse .badParam)
        | some r =>
          if Config.queueCapacity < r.queueLimit then
            (s.modChan c fun ch => { ch with config := { ch.config with queueLimit := 0 } }, refuse .badParam)
          else
            let s := storeCamera c r s
            (s, reply .ok [chanByte c, phaseByte (s.chan c).phase])

/-- The answer to a CAMERA READ (R61). -/
def cameraReadReply (payload : List Byte) (s : State) : Reply :=
  match payload with
  | [b] =>
    match chanOf b with
    | none => refuse .badParam
    | some c => reply .ok (cameraBytes c (s.chan c).config ++ [phaseByte (s.chan c).phase])
  | _ => refuse .badLength

/-! ## HALT, RESUME and RECOVER (R71, R75, R77) -/

/-- Every demand of a jog becomes 0 (R75, R146). -/
def zeroDemands (j : Jog) : Jog :=
  { j with axes := .ofFn fun a => (j.axes.get a).map fun ja => { ja with demand := 0 } }

/-- The effect of HALT on a mapped channel by its state (R75). walk is what runs where the rules run the walk. -/
def haltChannel (walk : State → State) (c : Chan) (s : State) : State :=
  match (s.chan c).phase with
  | .idle => enterRest walk c .held s
  | .zoneWait m => withdrawMove walk c m .halted (.rest .held) s
  | .moving m => enterStopping walk c m .halted .held s
  | .stopping m st => s.modChan c fun ch => { ch with phase := .stopping { m with post := .held } st }
  | .settling m => s.modChan c fun ch => { ch with phase := .settling { m with post := .held } }
  | .jogging j => s.modChan c fun ch => { ch with phase := .jogging { zeroDemands j with ret := .held } }
  | .manualWait _ n => s.modChan c fun ch => { ch with phase := .manualWait .held n }
  | .manual _ => s.modChan c fun ch => { ch with phase := .manual .held }
  | .vacant | .held | .fault => s

/-- Executes a HALT addressed to a channel (R75). -/
def haltBody (c : Chan) (s : State) : State × Reply := (haltChannel walk c s, reply .ok [chanByte c])

/-- A broadcast HALT at every mapped channel in ascending order, and then one walk (R76). -/
def haltAll (s : State) : State :=
  walk (allChans.foldl (fun s c => if mapped (s.chan c) then haltChannel id c s else s) s)

/-- Executes a RESUME (R77). -/
def resumeBody (c : Chan) (s : State) : State × Reply :=
  if (s.chan c).phase = .held then (s.modChan c (toPhase .idle), reply .ok [chanByte c])
  else (s, refuse .notHeld)

/-- A channel leaves FAULT (R71). -/
def recoverChannel (ch : Channel) : Channel := { ch with phase := .idle, followErrors := .all 0, reportAge := 0 }

/-- Executes a RECOVER (R71). -/
def recoverBody (c : Chan) (s : State) : State × Reply :=
  if (s.chan c).phase = .fault then (s.modChan c recoverChannel, reply .ok [chanByte c])
  else (s, refuse .notFaulted)

/-! ## QUERY (R79) -/

/-- Shot and tag of the active cue; zeros when absent (R189). -/
def activeBytes (ch : Channel) : List Byte :=
  match moveOf ch.phase with
  | some m => be16 m.cue.shot ++ be16 m.cue.tag.toNat
  | none => be16 0 ++ be16 0

/-- Move progress, present in MOVING and STOPPING (R79). -/
def progressOf : Phase → Option (Nat × Nat)
  | .moving m => some (m.field, m.dur)
  | .stopping _ st => some (st.step, st.rs)
  | _ => none

/-- Settle or wait count, present in SETTLING, ZONE_WAIT and MANUAL_WAIT (R79). -/
def countOf : Phase → Option Nat
  | .zoneWait m => some m.waitCount
  | .settling m => some m.settleCount
  | .manualWait _ n => some n
  | _ => none

/-- The presence byte of a QUERY answer (R189). DEDUCED (log entry 26): bits 4 to 7 are 0; unsafe. -/
def presenceByte (ch : Channel) : Byte :=
  BitVec.ofNat 8 ((hasActive ch).toNat + 2 * (progressOf ch.phase).isSome.toNat
    + 4 * (countOf ch.phase).isSome.toNat + 8 * ch.last.isSome.toNat)

/-- The data of a QUERY answer, 66 bytes (R79, R189). -/
def queryData (c : Chan) (ch : Channel) : List Byte :=
  [chanByte c, phaseByte ch.phase, tallyByte ch.tally] ++ flagByte ch.valid
    ++ ch.snapshot.commanded.toList.flatMap be24 ++ ch.snapshot.reported.toList.flatMap be24
    ++ be8 ch.reportAge ++ [ch.headStatus] ++ ch.followErrors.toList.flatMap be8
    ++ be8 ch.queue.length ++ flagByte ch.parked.isSome ++ [presenceByte ch] ++ activeBytes ch
    ++ be16 ((progressOf ch.phase).getD (0, 0)).1 ++ be16 ((progressOf ch.phase).getD (0, 0)).2
    ++ be16 ((countOf ch.phase).getD 0)
    ++ flagByte (ch.pendingLimits.toList.any Option.isSome) ++ flagByte ch.manualPending ++ lastBytes ch.last

/-! ## TALLY (R72, R73) -/

/-- A change of tally at a channel acts by its state (R73). The walk of a withdrawal is left to the frame. -/
def tallyChange (c : Chan) (t : Tally) (s : State) : State :=
  let s := s.modChan c fun ch => { ch with tally := t }
  match t, (s.chan c).phase with
  | .onAir, .zoneWait m =>
    if m.live then s
    else (dropWaiter c s).modChan c fun ch => { toPhase .idle ch with queue := m.cue :: ch.queue }
  | .onAir, .moving m => if m.live then s else enterStopping id c m .tallyStop .idle s
  | _, _ => s

/-- A channel takes its value from a TALLY frame; an unchanged value is no change (R72). -/
def tallyChannel (onAir : Chan → Bool) (s : State) (c : Chan) : State :=
  let t : Tally := if onAir c then .onAir else .offAir
  if (s.chan c).tally = t then s else tallyChange c t s

/-- A TALLY frame: every channel in ascending order, then one walk; discarded on a wrong length (R72, R172). -/
def tallyFrame (payload : List Byte) (s : State) : State :=
  match readTally payload with
  | none => s
  | some onAir => walk (allChans.foldl (tallyChannel onAir) s)

/-! ## POSITION and ALARM (R64 to R68) -/

/-- Reported positions, report age and head status take the values of a report (R65). -/
def storeReport (f : PositionFields) (ch : Channel) : Channel :=
  { ch with
    reported := .ofFn fun a => (f.axes.get a).getD (ch.reported.get a)
    reportAge := 0
    headStatus := f.status }

/-- Whether a report carries every axis of a mask (R64). -/
def carriesMask (f : PositionFields) (mask : AxisSet) : Bool :=
  allAxes.all fun a => !mask.get a || (f.axes.get a).isSome

/-- Validation: the first complete report makes position valid and gives the commanded positions (R64). -/
def validate (f : PositionFields) (ch : Channel) : Channel :=
  if !ch.valid && carriesMask f ch.config.mask then
    { ch with
      valid := true
      commanded := .ofFn fun a => (f.axes.get a).getD (ch.commanded.get a)
      history := .ofFn fun a => match f.axes.get a with
        | some p => History.fill p
        | none => ch.history.get a }
  else ch

/-- Whether the following check is made for an axis at a report (R66). -/
def followChecked (f : PositionFields) (ch : Channel) (a : Axis) : Bool :=
  ch.config.mask.get a && (f.axes.get a).isSome && (ch.limits.get a).follow != 0

/-- Whether an axis's reported position exceeds its follow limit about H[latency] (R66). -/
def followExceeds (ch : Channel) (a : Axis) : Bool :=
  (ch.limits.get a).follow < (ch.reported.get a - (ch.history.get a).get ch.config.latency).natAbs

/-- The following-error counts after a report (R66). -/
def followCounts (f : PositionFields) (ch : Channel) : PerAxis Nat :=
  .ofFn fun a =>
    if followChecked f ch a then
      if followExceeds ch a then min Config.followErrorLimit (ch.followErrors.get a + 1) else 0
    else ch.followErrors.get a

/-- The axis of lowest number whose count reaches 3 at a report (R66). -/
def followFault (f : PositionFields) (ch : Channel) : Option Axis :=
  allAxes.find? fun a =>
    followChecked f ch a && followExceeds ch a && (followCounts f ch).get a == Config.followErrorLimit

/-- Whether every moved axis with a window is within it of its clamped target (R117). -/
def inPosition (ch : Channel) (m : Move) : Bool :=
  allAxes.all fun a => !m.moved.get a || (ch.limits.get a).window == 0
    || (ch.reported.get a - m.target.get a).natAbs ≤ (ch.limits.get a).window

/-- The in-position test of SETTLING (R117). -/
def settleTest (c : Chan) (s : State) : State :=
  match (s.chan c).phase with
  | .settling m =>
    if inPosition (s.chan c) m then
      moveEnd walk c (endOf m .arrived none (some m.shot.rest)) (.rest m.post) s
    else s
  | _ => s

/-- A channel takes a POSITION report (R64 to R66, R117). -/
def takePosition (c : Chan) (f : PositionFields) (s : State) : State :=
  let s := s.modChan c fun ch => validate f (storeReport f ch)
  if inMotion (s.chan c).phase then
    let bad := followFault f (s.chan c)
    let s := s.modChan c fun ch => { ch with followErrors := followCounts f ch }
    match bad with
    | some a => enterFault c (.followError a) s
    | none => settleTest c s
  else s

/-- A channel takes an ALARM (R68). -/
def takeAlarm (c : Chan) (code : Byte) (s : State) : State :=
  if (s.chan c).phase = .fault then s else enterFault c (.headAlarm code) s

end Sys2Proof.Machine
end

