-- ==== Sys2Proof/Machine/Floor.lean ====
section
/-! DEFINITION. The Zone Arbiter's management frames: ZONE READ and ZONE RELEASE (R136, R137, R184). -/

namespace Sys2Proof.Machine

/-- The owner byte of a zone: the channel, or FFh for FREE (R184). -/
def ownerByte : Option Chan → Byte
  | some c => chanByte c
  | none => 0xFF

/-- The bit of a waiter's kind: bit 7, 0 MOVE and 1 MANUAL (R184). DEDUCED (log entry 14): bits 4 to 6 are 0; unsafe. -/
def waiterKindBits : WaiterKind → Byte
  | .move => 0x00
  | .manual => 0x80

/-- The six bytes of a waiter: channel and kind, requested set, and its channel's present wait count (R184). -/
def waiterBytes (s : State) (w : Waiter) : List Byte :=
  [chanByte w.channel ||| waiterKindBits w.kind] ++ zoneSetBytes w.zones
    ++ be16 ((countOf (s.chan w.channel).phase).getD 0)

/-- The answer to a ZONE READ: one frame for 11 waiters or fewer, and two parts above (R137, R180, R184). -/
def zoneReadReply (s : State) : Reply :=
  let ws := s.floor.waiters
  let owners := allZones.map fun z => ownerByte (s.floor.owners.get z)
  let shown := (ws.take Config.zoneReadPartWaiters).flatMap (waiterBytes s)
  let rest := (ws.drop Config.zoneReadPartWaiters).flatMap (waiterBytes s)
  if ws.length ≤ Config.zoneReadPartWaiters then
    ⟨.ok, [0, 1] ++ owners ++ be8 ws.length ++ shown, none⟩
  else ⟨.ok, [0, 2] ++ owners ++ be8 ws.length ++ shown, some ([1, 2] ++ rest)⟩

/-- Executes a ZONE RELEASE (R136). -/
def zoneReleaseBody (payload : List Byte) (s : State) : State × Reply :=
  match payload with
  | [b] =>
    match chanOf b with
    | none => (s, refuse .badParam)
    | some c =>
      if writable (s.chan c).phase then
        (walk (freeZones (s.zonesOf c) s), reply .ok ([b] ++ be8 (s.zonesOf c).length))
      else (s, refuse .busy)
  | _ => (s, refuse .badLength)

end Sys2Proof.Machine
end

