-- ==== Sys2Proof/Machine/LimitStore.lean ====
section
/-! DEFINITION. The Axis Limit Store: LIMIT WRITE and LIMIT READ (R22 to R29). -/

namespace Sys2Proof.Machine

/-- Whether the fields of a limit record pass the conditions of R23. -/
def limitsOk (l : Limits) : Bool :=
  l.minPos < l.maxPos && l.vmax != 0 && l.amax != 0 && l.vlive != 0 && l.alive != 0 && l.astop != 0

/-- The clamp indications of a LIMIT WRITE answer: bit 0 vlive, bit 1 alive (R22, R189).
DEDUCED (log entry 25): bits 2 to 7 are 0; unsafe. -/
def clampBits (l : Limits) : Byte :=
  BitVec.ofNat 8 ((decide (l.vmax < l.vlive)).toNat + 2 * (decide (l.amax < l.alive)).toNat)

/-- Stores a limit record as effective, or as pending while its channel is in the motion set (R24, R25). -/
def storeLimits (a : Axis) (l : Limits) (ch : Channel) : Channel :=
  if inMotion ch.phase then { ch with pendingLimits := ch.pendingLimits.set a (some (clampLive l)) }
  else { ch with limits := ch.limits.set a (clampLive l) }

/-- Executes a LIMIT WRITE (R23 to R25). -/
def limitWriteBody (payload : List Byte) (s : State) : State × Reply :=
  match readLimit payload with
  | none => (s, refuse .badLength)
  | some f =>
    match chanOf f.channel, Axis.ofNumber f.axis.toNat with
    | some c, some a =>
      if limitsOk f.limits then
        (s.modChan c (storeLimits a f.limits),
          reply (if inMotion (s.chan c).phase then .okDeferred else .ok) [f.channel, f.axis, clampBits f.limits])
      else (s, refuse .badParam)
    | _, _ => (s, refuse .badParam)

/-- The answer to a LIMIT READ (R29). -/
def limitReadReply (payload : List Byte) (s : State) : Reply :=
  match payload with
  | [ch, ax] =>
    match chanOf ch, Axis.ofNumber ax.toNat with
    | some c, some a =>
      reply .ok ([ch, ax] ++ limitBytes ((s.chan c).limits.get a)
        ++ flagByte ((s.chan c).pendingLimits.get a).isSome)
    | _, _ => refuse .badParam
  | _ => refuse .badLength

end Sys2Proof.Machine
end

