-- ==== Sys2Proof/Machine/Manual.lean ====
section
/-! DEFINITION. JOG frames and the manual handover's frames from the head (R141 to R145, R151, R155). -/

namespace Sys2Proof.Machine

/-! ## JOG (R142 to R145) -/

/-- The usable demands of a JOG frame: axes of the channel's mask, TRAVEL removed (R142). -/
def usableDemands (ch : Channel) (demands : PerAxis (Option Int)) : PerAxis (Option Int) :=
  .ofFn fun a => if ch.config.mask.get a && a != .travel then demands.get a else none

/-- The jog record a JOG frame starts in IDLE or HELD (R143). -/
def startJog (demands : PerAxis (Option Int)) (ret : RestState) : Jog where
  axes := .ofFn fun a => (demands.get a).map fun d => ⟨d, 0⟩
  age := 0
  ret := ret

/-- The jog record after a JOG frame taken in JOGGING (R144). -/
def updateJog (demands : PerAxis (Option Int)) (j : Jog) : Jog :=
  { j with
    axes := .ofFn fun a => match demands.get a with
      | some d => some ⟨d, ((j.axes.get a).map JogAxis.velocity).getD 0⟩
      | none => j.axes.get a
    age := 0 }

/-- The return state of a jog started in a state, where a jog may start (R143). -/
def jogReturn : Phase → Option RestState
  | .idle => some .idle
  | .held => some .held
  | _ => none

/-- A channel takes the demands of a JOG frame (R143 to R145). -/
def takeJog (demands : PerAxis (Option Int)) (ch : Channel) : Channel :=
  let usable := usableDemands ch demands
  match ch.phase with
  | .jogging j => { ch with phase := .jogging (updateJog usable j) }
  | p =>
    match jogReturn p with
    | some r =>
      if ch.valid && usable.toList.any Option.isSome then intoMotion (.jogging (startJog usable r)) ch else ch
    | none => ch

/-- A JOG frame taken by a channel; discarded on a wrong length (R142). -/
def jogFrame (c : Chan) (payload : List Byte) (s : State) : State :=
  match readJog payload with
  | none => s
  | some demands => s.modChan c (takeJog demands)

/-! ## MANUAL REQUEST and MANUAL RELEASE (R151, R155) -/

/-- A channel takes a MANUAL REQUEST from its head (R151). -/
def takeManualRequest (c : Chan) (s : State) : State :=
  match (s.chan c).phase with
  | .idle => enterManualWait walk c .idle s
  | .held => enterManualWait walk c .held s
  | .zoneWait _ | .moving _ | .stopping _ _ | .settling _ | .jogging _ =>
    s.modChan c fun ch => { ch with manualPending := true }
  | .fault => notice (cameraEventPayload c .manualDeniedFault) (sendDeny c 2 s)
  | .manualWait _ _ | .manual _ | .vacant => s

/-- A channel takes a MANUAL RELEASE from its head (R155). -/
def takeManualRelease (c : Chan) (s : State) : State :=
  match (s.chan c).phase with
  | .manualWait ret _ =>
    let s := walk (dropWaiter c s)
    let s := notice (cameraEventPayload c .manualWithdrawn) s
    s.modChan c (toPhase (restPhase ret))
  | .manual ret =>
    let s := s.modChan c fun ch => if ch.valid then takeReported ch else ch
    let s := notice (cameraEventPayload c .manualReleased) s
    s.modChan c (toPhase (restPhase ret))
  | _ => s

end Sys2Proof.Machine
end

