-- ==== Sys2Proof/Machine/Moves.lean ====
section
/-! DEFINITION. Move Execution and the channel's field event: the start attempt, the field work of every state, and
the steps that a field event of a channel comes to (R62, R99 to R118, R146, R147, R153). -/

namespace Sys2Proof.Machine

/-! ## Start attempt (R100 to R106) -/

/-- The moved axis set: the shot's axis set within the channel's mask (R4). -/
def movedAxes (ch : Channel) (r : Shot) : AxisSet := r.targets.present.inter ch.config.mask

/-- Whether some moved axis starts outside its travel (R104). -/
def startsOutside (ch : Channel) (moved : AxisSet) : Bool :=
  allAxes.any fun a => moved.get a && outside (ch.limits.get a) (ch.commanded.get a)

/-- The clamped target of an axis; its present position when the shot gives none (R105). -/
def clampedTarget (ch : Channel) (r : Shot) (a : Axis) : Int :=
  match r.targets.get a with
  | some t => clampPos (ch.limits.get a).minPos (ch.limits.get a).maxPos t
  | none => ch.commanded.get a

/-- Whether the clamp changes the target of a moved axis (R105). -/
def clampChanges (ch : Channel) (r : Shot) (moved : AxisSet) : Bool :=
  allAxes.any fun a => moved.get a && r.targets.get a != some (clampedTarget ch r a)

/-- The requested duration: the cue's override, else the shot's duration, else 0 (R34). -/
def requestedDuration (q : Cue) (r : Shot) : Nat := q.override.getD (r.duration.getD 0)

/-- The requested zone set: route zones together with rest zones, each once (R5, R106). -/
def requestedZones (r : Shot) : List Zone := r.route ++ r.rest.filter fun z => !r.route.contains z

/-- The move record of a cue whose shot is found and whose move may run (R34 to R38, R99, R105). Its duration is
0 for a zero-distance move, and is not yet tested against 4095 fields. -/
def planMove (ch : Channel) (q : Cue) (r : Shot) (live : Bool) : Move :=
  let moved := movedAxes ch r
  let dist : PerAxis Int := .ofFn fun a => if moved.get a then clampedTarget ch r a - ch.commanded.get a else 0
  let ease := r.ease.getD ch.config.defaultEase
  let treq := requestedDuration q r
  let tmin := shortest ch.limits live moved dist ease
  let zero := (movingAxes moved dist).isEmpty
  let dur := if zero then 0 else max tmin (max (2 * ease) treq)
  let w := dur - ease
  { cue := q
    shot := r
    moved := moved
    start := ch.commanded
    target := .ofFn fun a => if moved.get a then clampedTarget ch r a else ch.commanded.get a
    dist := dist
    ease := ease
    dur := dur
    w := w
    q := 2 * ease * w
    field := 0
    clamped := clampChanges ch r moved
    stretched := !zero && 0 < treq && treq < tmin
    live := live
    zones := requestedZones r
    waitCount := 0
    settleCount := 0
    post := .idle }

/-- The end of a cue at its start attempt, with T used 0 (R102, R104, R105). -/
def startEnd (q : Cue) (o : MoveOutcome) (clamped live : Bool) : MoveEnd where
  cue := q
  outcome := o
  clamped := clamped
  stretched := false
  live := live
  used := 0
  cause := none
  keep := none

/-- The setpoint of the profile field k to k + 1 of each moved axis (R41, R43). -/
def moveSetpoints (m : Move) : PerAxis (Option (List Int)) :=
  .ofFn fun a =>
    if m.moved.get a then some (dither (profilePos m a m.field) (profilePos m a (m.field + 1))) else none

/-- The commanded positions after the profile field k to k + 1 (R111). -/
def moveCommanded (m : Move) (ch : Channel) : PerAxis Int :=
  .ofFn fun a => if m.moved.get a then profilePos m a (m.field + 1) else ch.commanded.get a

/-- Whether some moved axis has a window above 0 (R111). -/
def windowed (ch : Channel) (m : Move) : Bool :=
  allAxes.any fun a => m.moved.get a && (ch.limits.get a).window != 0

/-- Emits profile field k to k + 1 of a move and advances k (R111, R112). -/
def emitProfile (c : Chan) (m : Move) (s : State) : State :=
  let s := emit c (setpointFrame s c 0 (moveSetpoints m)) s
  s.modChan c fun ch =>
    { ch with commanded := moveCommanded m ch, phase := .moving { m with field := m.field + 1 } }

/-- How a move whose profile is complete goes on: SETTLING, or ARRIVED when no moved axis has a window (R111). -/
def completeProfile (c : Chan) (m : Move) (s : State) : State :=
  if windowed (s.chan c) m then s.modChan c fun ch => { ch with phase := .settling { m with settleCount := 0 } }
  else moveEnd walk c (endOf m .arrived none (some m.shot.rest)) (.rest m.post) s

/-- The field work of MOVING (R111). -/
def moveField (c : Chan) (m : Move) (s : State) : State :=
  let s := emitProfile c m s
  if m.dur ≤ m.field + 1 then completeProfile c { m with field := m.field + 1 } s else s

/-- The last step of a start attempt: the zone request and what follows from it (R106, R128). -/
def requestMove (c : Chan) (m : Move) (s : State) : State :=
  let r := walkPass s.floor.owners [] (s.floor.waiters ++ [⟨c, .move, m.zones⟩])
  let granted := r.2.2.any fun w => w.channel == c
  let s := { s with floor := ⟨r.1, r.2.1⟩ }
  let s := if granted then s else s.modChan c (intoMotion (.zoneWait m))
  let s := (r.2.2.filter fun w => w.channel != c).foldl (takeGrant walk) s
  if !granted then s
  else if m.dur = 0 then moveEnd walk c (endOf m .arrived none (some m.shot.rest)) (.rest .idle) s
  else moveField c m (s.modChan c (intoMotion (.moving m)))

/-- The checks of a start attempt that has taken its head cue and found its shot (R103 to R106). -/
def resolveMove (c : Chan) (q : Cue) (r : Shot) (s : State) : State :=
  let ch := s.chan c
  let live := ch.tally == .onAir
  if live && !(r.live && s.monitor.fieldState == .locked) then
    s.modChan c fun ch => { ch with queue := q :: ch.queue }
  else if startsOutside ch (movedAxes ch r) then moveEnd walk c (startEnd q .startOutside false live) (.rest .idle) s
  else
    let m := planMove ch q r live
    if Config.maxDuration < m.dur then moveEnd walk c (startEnd q .profileRange m.clamped live) (.rest .idle) s
    else requestMove c m s

/-- A start attempt of an IDLE channel: its three gates, then the resolution of its head cue (R101 to R106). -/
def startAttempt (c : Chan) (s : State) : State :=
  let ch := s.chan c
  if ch.manualPending then enterManualWait walk c .idle s
  else
    match ch.queue with
    | [] => s
    | q :: qs =>
      if !ch.valid then s
      else
        let s := s.modChan c fun ch => { ch with queue := qs }
        match s.findShot c q.shot with
        | none => moveEnd walk c (startEnd q .noShot false false) (.rest .idle) s
        | some r => resolveMove c q r s

/-! ## Field work of the other states -/

/-- A wait count after one more field, saturating at 4095 (R107, R153). -/
def nextCount (n : Nat) : Nat := min Config.maxWaitCount (n + 1)

/-- Whether a wait count has reached a zone wait limit that is above 0 (R107, R133). -/
def waitExpired (limit n : Nat) : Bool := limit != 0 && limit ≤ n

/-- The field work of ZONE_WAIT (R107). -/
def zoneWaitField (c : Chan) (m : Move) (s : State) : State :=
  let m := { m with waitCount := nextCount m.waitCount }
  let s := s.modChan c fun ch => { ch with phase := .zoneWait m }
  if waitExpired (s.chan c).config.zoneWaitLimit m.waitCount then
    withdrawMove walk c m .zoneTimeout (.rest .idle) s
  else s

/-- The setpoint of the next stop step of each moved axis (R45). -/
def stopSetpoints (ch : Channel) (m : Move) (st : Stop) : PerAxis (Option (List Int)) :=
  .ofFn fun a =>
    if m.moved.get a then
      some (dither (stopPos (ch.limits.get a) st a st.step) (stopPos (ch.limits.get a) st a (st.step + 1)))
    else none

/-- The commanded positions after the next stop step (R115). -/
def stopCommanded (m : Move) (st : Stop) (ch : Channel) : PerAxis Int :=
  .ofFn fun a => if m.moved.get a then stopPos (ch.limits.get a) st a (st.step + 1) else ch.commanded.get a

/-- The field work of STOPPING (R115). -/
def stopField (c : Chan) (m : Move) (st : Stop) (s : State) : State :=
  let s := emit c (setpointFrame s c 1 (stopSetpoints (s.chan c) m st)) s
  let s := s.modChan c fun ch =>
    { ch with commanded := stopCommanded m st ch, phase := .stopping m { st with step := st.step + 1 } }
  if st.rs ≤ st.step + 1 then moveEnd walk c (endOf m (stopOutcome st.cause) none none) (.rest m.post) s else s

/-- The field work of SETTLING (R118). -/
def settleField (c : Chan) (m : Move) (s : State) : State :=
  let m := { m with settleCount := m.settleCount + 1 }
  let s := s.modChan c fun ch => { ch with phase := .settling m }
  if (s.chan c).config.settleLimit ≤ m.settleCount then
    moveEnd walk c (endOf m .settleTimeout none (some m.shot.rest)) (.rest m.post) s
  else s

/-- A jog record aged by one field, with the deadman at age 8 (R146, steps 1 and 2). -/
def ageJog (j : Jog) : Jog :=
  let j := { j with age := min Config.jogDeadmanAge (j.age + 1) }
  if j.age = Config.jogDeadmanAge then zeroDemands j else j

/-- The new positions of the jog axes at a jog step (R146, step 3). -/
def jogPositions (ch : Channel) (j : Jog) : PerAxis Int :=
  .ofFn fun a => match j.axes.get a with
    | some ja => (jogStep (ch.limits.get a) ch.tally (ch.commanded.get a) ja).1
    | none => ch.commanded.get a

/-- The jog record after a jog step (R146, step 3). -/
def stepJog (ch : Channel) (j : Jog) : Jog :=
  { j with axes := .ofFn fun a =>
      (j.axes.get a).map fun ja => (jogStep (ch.limits.get a) ch.tally (ch.commanded.get a) ja).2 }

/-- The setpoint of a jog step (R51). -/
def jogSetpoints (ch : Channel) (j : Jog) : PerAxis (Option (List Int)) :=
  .ofFn fun a => (j.axes.get a).map fun _ => dither (ch.commanded.get a) ((jogPositions ch j).get a)

/-- Whether every demand and every velocity of a jog is 0 (R147). -/
def jogAtRest (j : Jog) : Bool :=
  j.axes.toList.all fun x => match x with
    | some ja => ja.demand == 0 && ja.velocity == 0
    | none => true

/-- The field work of JOGGING (R146, R147). -/
def jogField (c : Chan) (j : Jog) (s : State) : State :=
  let ch := s.chan c
  let j := ageJog j
  let s := emit c (setpointFrame s c 2 (jogSetpoints ch j)) s
  let s := s.modChan c fun x => { x with commanded := jogPositions ch j, phase := .jogging (stepJog ch j) }
  if jogAtRest (stepJog ch j) then enterRest walk c j.ret s else s

/-- The field work of MANUAL_WAIT (R153). -/
def manualWaitField (c : Chan) (ret : RestState) (n : Nat) (s : State) : State :=
  let s := s.modChan c fun ch => { ch with phase := .manualWait ret (nextCount n) }
  if waitExpired (s.chan c).config.zoneWaitLimit (nextCount n) then
    let s := sendDeny c 1 (walk (dropWaiter c s))
    let s := notice (cameraEventPayload c .manualDeniedZones) s
    s.modChan c (toPhase (restPhase ret))
  else s

/-! ## A field event at a channel (R62) -/

/-- A history shifted by one place with a new H[0]. -/
def shiftHistory (h : History) (p : Int) : History := #v[p, h[0], h[1], h[2], h[3], h[4], h[5], h[6]]

/-- Steps 1 to 3 of R62 at a mapped channel: history, snapshot and report age. -/
def bookkeep (ch : Channel) : Channel :=
  { ch with
    history := .ofFn fun a => shiftHistory (ch.history.get a) (ch.commanded.get a)
    snapshot := ⟨ch.commanded, ch.reported⟩
    reportAge := min Config.maxReportAge (ch.reportAge + 1)
    fieldDue := false }

/-- Whether a channel, after its bookkeeping, faults REPORT_LOSS (R67). DESIGN CHOICE (log entry 24): with a report
timeout of 1 an age of 1 faults, though the channel took a POSITION just before the field event; unsafe. -/
def reportsLost (ch : Channel) : Bool := inMotion ch.phase && ch.config.reportTimeout ≤ ch.reportAge

/-- The field work of a channel's state (R62, step 4). -/
def fieldWork (c : Chan) (s : State) : State :=
  match (s.chan c).phase with
  | .idle => startAttempt c s
  | .zoneWait m => zoneWaitField c m s
  | .moving m => moveField c m s
  | .stopping m st => stopField c m st s
  | .settling m => settleField c m s
  | .jogging j => jogField c j s
  | .manualWait ret n => manualWaitField c ret n s
  | .vacant | .held | .manual _ | .fault => s

/-- A channel takes the field event delivered to it (R62). A channel that is VACANT by then takes no action. -/
def takeField (c : Chan) (s : State) : State :=
  if !(s.chan c).fieldDue then s
  else if !mapped (s.chan c) then s.modChan c fun ch => { ch with fieldDue := false }
  else
    let s := s.modChan c bookkeep
    if reportsLost (s.chan c) then enterFault c .reportLoss s else fieldWork c s

/-! ## What a delivered field event comes to at a channel

Each predicate says, of a channel that has not yet taken its field event, whether it comes to the step named. -/

/-- The channel would fault REPORT_LOSS (R67). -/
def losesReports (ch : Channel) : Bool := reportsLost (bookkeep ch)

/-- The channel would emit the last field of its profile (R111). -/
def endsProfile (ch : Channel) : Bool :=
  !losesReports ch && match ch.phase with
    | .moving m => decide (m.dur ≤ m.field + 1)
    | _ => false

/-- The channel would emit the last step of its stop (R115). -/
def endsStop (ch : Channel) : Bool :=
  !losesReports ch && match ch.phase with
    | .stopping _ st => decide (st.rs ≤ st.step + 1)
    | _ => false

/-- The channel's jog would reach the deadman (R146). -/
def reachesDeadman (ch : Channel) : Bool :=
  !losesReports ch && match ch.phase with
    | .jogging j => decide (Config.jogDeadmanAge ≤ j.age + 1)
    | _ => false

/-- The channel's jog would end (R147). -/
def endsJog (ch : Channel) : Bool :=
  !losesReports ch && match ch.phase with
    | .jogging j => jogAtRest (stepJog ch (ageJog j))
    | _ => false

/-- The channel's zone wait would time out (R107). -/
def expiresZoneWait (ch : Channel) : Bool :=
  !losesReports ch && match ch.phase with
    | .zoneWait m => waitExpired ch.config.zoneWaitLimit (nextCount m.waitCount)
    | _ => false

/-- The channel's settling would time out (R118). -/
def expiresSettle (ch : Channel) : Bool :=
  !losesReports ch && match ch.phase with
    | .settling m => decide (ch.config.settleLimit ≤ m.settleCount + 1)
    | _ => false

/-- The channel's manual wait would time out (R153). -/
def expiresManualWait (ch : Channel) : Bool :=
  match ch.phase with
  | .manualWait _ n => waitExpired ch.config.zoneWaitLimit (nextCount n)
  | _ => false

end Sys2Proof.Machine
end

