-- ==== Sys2Proof/Machine/Reference.lean ====
section
/-! DEFINITION. The Reference Monitor: the measurement window, lock, the flywheel and the delivery of field events
(R158 to R168), and the Head Port's side of a field event (R177). -/

namespace Sys2Proof.Machine

/-! ## Delivery of a field event (R160, R177) -/

/-- The Head Port takes a field event: the closed batch is dropped with its unsent frames, and the frames of the
new one become current (R177). -/
def takeHead (s : State) : State :=
  if s.monitor.headDue then
    { s with
      link := { s.link with batch := s.link.nextBatch, nextBatch := Batch.empty }
      monitor := { s.monitor with headDue := false } }
  else s

/-- A taker takes the field event, where it is still due to it. -/
def takeDue (s : State) (t : Taker) : State :=
  match t with
  | .headPort => takeHead s
  | .channel c => takeField c s

/-- Every taker: the Head Port, then the channels in ascending order. -/
def allTakers : List Taker := .headPort :: allChans.map .channel

/-- Whatever has not yet taken the latest field event takes it, before the next one (R159, R160). -/
def finishField (s : State) : State := allTakers.foldl takeDue s

/-- A field event is delivered to the Head Port and to every mapped channel, in the monitor's present state (R160). -/
def deliver (s : State) : State :=
  let s := { s with monitor := { s.monitor with headDue := true, fieldState := s.monitor.state } }
  allChans.foldl (fun s c => s.modChan c fun ch => { ch with fieldDue := mapped ch }) s

/-- A field event, taken within its own step by the takers given, in their order. DESIGN CHOICE (log entry 2):
takers not given take it later; unsafe. -/
def fieldEvent (takers : List Taker) (s : State) : State := takers.foldl takeDue (deliver s)

/-- On an empty queue the first of those that have not yet taken the latest field event takes it (log entry 2). -/
def idle (s : State) : State :=
  if s.resetHeld then s
  else if s.monitor.headDue then takeHead s
  else
    match allChans.find? fun c => (s.chan c).fieldDue with
    | some c => takeField c s
    | none => s

/-! ## State changes (R167) -/

/-- A change of the reference state, with its PART EVENT notice (R167). -/
def changeRef (r : RefState) (s : State) : State :=
  notice (partEventPayload r s.monitor.heldPeriod) { s with monitor := { s.monitor with state := r } }

/-- The moment the active window reaches its elapsed limit (R161). -/
def windowEnd (w : Window) : Nat := w.startAt + Config.windowLimit

/-- Whether a time has not passed the flywheel's expiry nor the active window's limit. -/
def timeOpen (m : Monitor) (t : Nat) : Bool :=
  m.now ≤ t && t ≤ m.flywheelAt && (match m.window with | some w => t ≤ windowEnd w | none => true)

/-! ## Reference pulses (R161 to R164) -/

/-- A pulse with no active window starts one (R161). The PART EVENT notice of the change from ABSENT is queued (R167); it is
not sent before a frame has reached the part (R192, maySend). -/
def startWindow (t : Nat) (s : State) : State :=
  let s := { s with monitor := { s.monitor with window := some ⟨t, 0⟩ } }
  if s.monitor.state = .absent then changeRef .acquire s else s

/-- Lock at a pulse, with the period measured (R162, R163). -/
def lock (t elapsed : Nat) (s : State) : State :=
  let period := (profileRound (elapsed : Int) Config.windowPulses).toNat
  changeRef .locked
    { s with monitor := { s.monitor with
        heldPeriod := period
        flywheelAt := t + period + Config.pulseTolerance
        window := none
        afterLock := true } }

/-- A pulse in an active window (R161, R162). -/
def windowPulse (t : Nat) (w : Window) (s : State) : State :=
  if w.pulses + 1 < Config.windowPulses then
    { s with monitor := { s.monitor with window := some { w with pulses := w.pulses + 1 } } }
  else if Config.windowLeast ≤ t - w.startAt then lock t (t - w.startAt) s
  else { s with monitor := { s.monitor with window := none } }

/-- Whether a pulse in LOCKED is accepted: the first after the lock, or one not earlier than the held period less
500 µs after the latest field event (R163, R164). -/
def pulseAccepted (m : Monitor) (t : Nat) : Bool :=
  m.afterLock || m.lastFieldAt + m.heldPeriod ≤ t + Config.pulseTolerance

/-- Records a field event at a time, with the flywheel timer reloaded to expire so many µs after it (R159). -/
def recordField (t reload : Nat) (s : State) : State :=
  { s with monitor := { s.monitor with now := t, lastFieldAt := t, flywheelAt := t + reload, afterLock := false } }

/-- An accepted pulse reloads the flywheel timer and is a field event (R164). -/
def acceptPulse (t : Nat) (takers : List Taker) (s : State) : State :=
  fieldEvent takers (recordField t (s.monitor.heldPeriod + Config.pulseTolerance) (finishField s))

/-- A reference pulse at a time (R161 to R164). -/
def pulse (t : Nat) (takers : List Taker) (s : State) : State :=
  let s := { s with monitor := { s.monitor with now := t } }
  if s.monitor.state = .locked then
    if pulseAccepted s.monitor t then acceptPulse t takers s else s
  else
    match s.monitor.window with
    | none => startWindow t s
    | some w => windowPulse t w s

/-- The REFERENCE_PULSE command. A pulse at a time that a due expiry or window limit comes before, or at a time
already passed, does not come about (log entry 3). -/
def pulseCommand (t : Nat) (takers : List Taker) (s : State) : State :=
  if !s.resetHeld && timeOpen s.monitor t then pulse t takers s else s

/-! ## The elapsed limit and the flywheel (R162, R165) -/

/-- The elapsed limit of the active window (R162). -/
def endWindow (w : Window) (s : State) : State :=
  let s := { s with monitor := { s.monitor with now := windowEnd w, window := none } }
  if s.monitor.state = .acquire ∨ s.monitor.state = .flywheel then changeRef .absent s else s

/-- The WINDOW_ELAPSED_LIMIT command: it comes about when a window is active and its limit is the next of the
monitor's times. -/
def windowLimitCommand (s : State) : State :=
  match s.monitor.window with
  | some w => if !s.resetHeld && timeOpen s.monitor (windowEnd w) then endWindow w s else s
  | none => s

/-- The expiry of the flywheel timer: a field event, which in LOCKED is the loss of the reference (R159, R165). -/
def expireFlywheel (takers : List Taker) (s : State) : State :=
  let s' := recordField s.monitor.flywheelAt s.monitor.heldPeriod (finishField s)
  fieldEvent takers (if s.monitor.state = .locked then changeRef .flywheel s' else s')

/-- The FLYWHEEL_TIMER_EXPIRY command: it comes about at the time the timer is set to, when no window limit comes
before it. -/
def expiryCommand (takers : List Taker) (s : State) : State :=
  if !s.resetHeld && timeOpen s.monitor s.monitor.flywheelAt then expireFlywheel takers s else s

end Sys2Proof.Machine
end

