-- ==== Sys2Proof/Machine/Part.lean ====
section
/-! DEFINITION. The part as a whole: PART QUERY, the RESET frame, power-on and the reset pin (R191 to R193). -/

namespace Sys2Proof.Machine

/-- The data of a PART QUERY answer (R191). -/
def partQueryData (s : State) : List Byte :=
  [Config.vendorCode] ++ be16 Config.partCode ++ [Config.revision, s.partAddress, refByte s.monitor.state]
    ++ be16 s.monitor.heldPeriod ++ be8 s.poolFree ++ be16 s.shots.length ++ flagByte s.out.noticeLost

/-- Executes a PART QUERY: the flag is reported and then cleared (R191). -/
def partQueryBody (s : State) : State × Reply :=
  ({ s with out := { s.out with noticeLost := false } }, reply .ok (partQueryData s))

/-- A mapped channel at a RESET frame: it enters IDLE with its work dropped (R78). -/
def resetMapped (ch : Channel) : Channel :=
  { ch with
    phase := .idle
    valid := false
    manualPending := false
    history := .all (History.fill 0)
    snapshot := .zero
    followErrors := .all 0
    reportAge := 0
    headStatus := 0
    last := none }

/-- A channel after a RESET frame: pending limits applied (R21), tally OFF_AIR (R72), its cues dropped (R96), and
its work dropped where it is mapped (R78). -/
def resetChannel (ch : Channel) : Channel :=
  { (if mapped ch then resetMapped (applyPending ch) else applyPending ch) with
    tally := .offAir
    queue := []
    nextRank := 0
    parked := none }

/-- The frame a RESET with its propagate flag set puts first in the head control list (R178, R193). -/
def propagatedReset (s : State) : Frame :=
  ⟨Config.broadcastAddress, s.partAddress, partCode .reset, [0]⟩

/-- The Link Interface after a RESET frame: queues, list and batches emptied; frames on the lines finish (R193). -/
def resetLink (control : List Frame) (l : Link) : Link :=
  { l with
    downstream := []
    upstream := []
    headControl := control
    batch := Batch.empty
    nextBatch := Batch.empty
    controlSecond := false }

/-- A RESET frame's work on every block but the Reference Monitor (R193). -/
def resetPart (propagate : Bool) (s : State) : State :=
  let s := allChans.foldl (fun s c => s.modChan c resetChannel) s
  { s with
    poolFree := Config.poolSize
    parkOrder := []
    floor := ⟨Vector.replicate 24 none, []⟩
    link := resetLink (if propagate then [propagatedReset s] else []) s.link
    out := { s.out with entries := [], noticeLost := false } }

/-- Executes a RESET frame (R193). -/
def resetBody (payload : List Byte) (s : State) : State × Reply :=
  match payload with
  | [b] =>
    if b = 0 then (resetPart false s, reply .ok [b])
    else if b = 1 then (resetPart true s, reply .ok [b])
    else (s, refuse .badParam)
  | _ => (s, refuse .badLength)

/-- The release of power-on reset or RESET_N, keeping the queue of commands (R192). -/
def releaseReset (straps : BitVec 5) (s : State) : State := { State.powerOn straps with pending := s.pending }

/-- Power-on reset asserted, or RESET_N low: both transmit lines are held idle (R169, R192).
DEDUCED (log entry 9): the blocks keep what they hold until the release; unsafe. -/
def assertReset (s : State) : State :=
  { s with
    resetHeld := true
    link := { s.link with headLine := none, controlLine := none } }

end Sys2Proof.Machine
end

