-- ==== Sys2Proof/Machine/LinkInterface.lean ====
section
/-! DEFINITION. The Link Interface: reception and classification of frames, the hunt for frames, and the two
transmitters (R171 to R180). -/

namespace Sys2Proof.Machine

/-! ## Classification at the Control Port (R173, R174) -/

/-- A frame with no payload of its own: executed when the payload is empty, else answered BAD_LENGTH (R172). -/
def plain (payload : List Byte) (body : State → State × Reply) (s : State) : State × Reply :=
  if payload = [] then body s else (s, refuse .badLength)

/-- A frame of a kind 20h to 2Ch at the part's own address (R173, R186). -/
def partFrame (k : PartKind) (f : Frame) (s : State) : State :=
  match k with
  | .tally => tallyFrame f.payload s
  | .shotWrite => answered f.kind (shotWriteBody f.payload) s
  | .shotErase => answered f.kind (shotEraseBody f.payload) s
  | .shotRead => answered f.kind (fun s => (s, shotReadReply f.payload s)) s
  | .verify => answered f.kind (fun s => (s, verifyAnswer f.payload s)) s
  | .limitWrite => answered f.kind (limitWriteBody f.payload) s
  | .limitRead => answered f.kind (fun s => (s, limitReadReply f.payload s)) s
  | .cameraWrite => answered f.kind (cameraWriteBody f.payload) s
  | .cameraRead => answered f.kind (fun s => (s, cameraReadReply f.payload s)) s
  | .zoneRead => answered f.kind (plain f.payload fun s => (s, zoneReadReply s)) s
  | .zoneRelease => answered f.kind (zoneReleaseBody f.payload) s
  | .partQuery => answered f.kind (plain f.payload partQueryBody) s
  | .reset => answered f.kind (resetBody f.payload) s

/-- A camera command at the link address of a mapped channel (R173, R186). -/
def cameraFrame (c : Chan) (k : CameraKind) (f : Frame) (s : State) : State :=
  match k with
  | .call => answered f.kind (callBody c f.payload) s
  | .jog => jogFrame c f.payload s
  | .halt => answered f.kind (plain f.payload (haltBody c)) s
  | .resume => answered f.kind (plain f.payload (resumeBody c)) s
  | .flush => answered f.kind (plain f.payload (flushBody c)) s
  | .recover => answered f.kind (plain f.payload (recoverBody c)) s
  | .query => answered f.kind (plain f.payload fun s => (s, reply .ok (queryData c (s.chan c)))) s

/-- A frame at the part's own address (R173): its kinds, those forwarded, and BAD_KIND for any other. -/
def ownFrame (f : Frame) (s : State) : State :=
  match partKind f.kind with
  | some k => partFrame k f s
  | none =>
    if 0x80 ≤ f.kind.toNat then forwardDown f s
    else answered f.kind (fun s => (s, refuse .badKind)) s

/-- Whether a frame is a broadcast HALT that is executed (R174). -/
def isBroadcastHalt (f : Frame) : Bool :=
  f.dest == Config.broadcastAddress && f.kind == cameraCode .halt && f.payload == []

/-- A frame at an address that is neither the part's nor a mapped channel's (R173, R174). -/
def strayFrame (f : Frame) (s : State) : State :=
  if isBroadcastHalt f then forwardDown f (haltAll s) else forwardDown f s

/-- A frame received at the Control Port is classified by its destination and kind (R173). -/
def controlFrame (f : Frame) (s : State) : State :=
  if f.dest = s.partAddress then ownFrame f s
  else
    match s.channelAt f.dest with
    | some c =>
      match cameraKind f.kind with
      | some k => cameraFrame c k f s
      | none => forwardDown f s
    | none => strayFrame f s

/-! ## Classification at the Head Port (R175) -/

/-- A frame of a kind taken from the heads, whose source is a mapped channel's address (R172, R175). -/
def headChannelFrame (c : Chan) (k : HeadKind) (f : Frame) (s : State) : State :=
  match k with
  | .position =>
    match readPosition f.payload with
    | some p => forwardUp f (takePosition c p s)
    | none => forwardUp f s
  | .alarm =>
    match f.payload with
    | [code] => forwardUp f (takeAlarm c code s)
    | _ => forwardUp f s
  | .manualRequest => if f.payload = [] then takeManualRequest c s else s
  | .manualRelease => if f.payload = [] then takeManualRelease c s else s

/-- A frame received at the Head Port is classified by its source and kind (R175). DESIGN CHOICE (log entry 27, unsafe): a
MANUAL REQUEST or MANUAL RELEASE whose source is the part's own address is discarded, as the table's row for an address
held by no channel says, though the last sentence of R175 forwards a frame of that source. -/
def headFrame (f : Frame) (s : State) : State :=
  match headKind f.kind with
  | none => forwardUp f s
  | some k =>
    match s.channelAt f.source with
    | some c => headChannelFrame c k f s
    | none =>
      match k with
      | .position | .alarm => forwardUp f s
      | .manualRequest | .manualRelease => s

/-! ## Reception (R171) -/

/-- Whether a frame can be received and names link addresses: payload of at most 96 bytes, destination and source
of at most 31 (R170, R171). -/
def addressed (f : Frame) : Bool :=
  f.payload.length ≤ Config.maxPayload && f.dest.toNat ≤ 31 && f.source.toNat ≤ 31

/-- Sets the bytes of the candidate in progress at a receiver. -/
def setRx (p : Port) (bytes : List Byte) (s : State) : State :=
  match p with
  | .control => { s with link := { s.link with controlRx := bytes } }
  | .head => { s with link := { s.link with headRx := bytes } }

/-- The bytes of the candidate in progress at a receiver. -/
def rxOf (p : Port) (s : State) : List Byte :=
  match p with
  | .control => s.link.controlRx
  | .head => s.link.headRx

/-- Classifies a frame received at a port. -/
def classify (p : Port) (f : Frame) (s : State) : State :=
  match p with
  | .control => controlFrame f s
  | .head => headFrame f s

/-- The arrival of a received frame's last check byte: its receiver hunts again (R171), and a frame has reached the part
(R192). DEDUCED (log entry 29, unsafe): every received frame reaches it, at either port, one that is then discarded too. -/
def arrive (p : Port) (s : State) : State := setRx p [] { s with link := { s.link with reached := true } }

/-- A frame is received at a port: taken whole at the arrival of its last check byte, after which its receiver
hunts again (R171; log entry 7). Nothing is received while the reset is asserted (R192). -/
def receive (p : Port) (f : Frame) (s : State) : State :=
  if s.resetHeld then s
  else if addressed f then classify p f (arrive p s)
  else arrive p s

/-- A candidate that a receiver has taken whole: the bytes after its sync, header first. -/
def candidate (dest source kind : Byte) (len : Nat) (more : List Byte) : Frame × List Byte :=
  (⟨dest, source, kind, more.take len⟩, (more.drop len).take 2)

/-- The hunt over the bytes a receiver holds (R171): the frames found, oldest first, and the bytes of the candidate
still in progress. The first argument bounds the hunt by the number of bytes. -/
def hunt : Nat → List Byte → List Frame × List Byte
  | 0, bs => ([], bs)
  | _ + 1, [] => ([], [])
  | n + 1, b :: rest =>
    if b ≠ Config.sync then hunt n rest
    else
      match rest with
      | dest :: source :: kind :: len :: more =>
        if Config.maxPayload < len.toNat then hunt n rest
        else if more.length < len.toNat + 2 then ([], b :: rest)
        else
          let f := candidate dest source kind len.toNat more
          if f.2 = crcBytes (frameBody f.1) then
            let r := hunt n (more.drop (len.toNat + 2))
            (f.1 :: r.1, r.2)
          else hunt n rest
      | _ => ([], b :: rest)

/-- Bytes arrive at a receiver: each frame the hunt finds is received in turn, and the candidate still in progress
stays (R171; log entry 8). -/
def takeBytes (p : Port) (bytes : List Byte) (s : State) : State :=
  if s.resetHeld then s
  else
    let held := rxOf p s ++ bytes
    let r := hunt held.length held
    setRx p r.2 (r.1.foldl (fun s f => receive p f s) s)

/-! ## Transmitters (R179, R180) -/

/-- The unsent frame of the current batch with the lowest channel number (R179). -/
def nextSetpoint (b : Batch) : Option (Chan × Frame) :=
  allChans.findSome? fun c =>
    match b.get c with
    | some x => if x.sent then none else some (c, x.frame)
    | none => none

/-- The Head Port transmitter's choice at a frame boundary; none when nothing is available (R179). -/
def chooseHead (l : Link) : Link :=
  match nextSetpoint l.batch with
  | some (c, f) => { l with headLine := some f, batch := l.batch.set c.val (some ⟨f, true⟩) c.isLt }
  | none =>
    match l.headControl, l.downstream with
    | f :: fs, _ => { l with headLine := some f, headControl := fs }
    | [], f :: fs => { l with headLine := some f, downstream := fs }
    | [], [] => { l with headLine := none }

/-- The transmitters may send: the reset is not asserted, and a frame has reached the part since its release (R192). -/
def maySend (s : State) : Bool := !s.resetHeld && s.link.reached

/-- A frame boundary of the Head Port (R179; DESIGN CHOICE, log entry 15). Nothing is sent while the reset is asserted, nor
after it until a frame has reached the part (R192). -/
def headBoundary (s : State) : State :=
  if maySend s then { s with link := chooseHead s.link } else s

/-- The Control Port transmitter's choice among the Outbound Queue: the frame of the oldest entry. An entry leaves
when its last frame begins to be sent (R180, R185). -/
def sendEntry (s : State) : State :=
  match s.out.entries with
  | [] => { s with link := { s.link with controlLine := none } }
  | e :: es =>
    match e.second with
    | none =>
      { s with
        link := { s.link with controlLine := some e.first }
        out := { s.out with entries := es } }
    | some _ => { s with link := { s.link with controlLine := some e.first, controlSecond := true } }

/-- The second frame of the entry whose first is on the line (R180, R184). -/
def sendSecond (s : State) : State :=
  match s.out.entries with
  | [] => { s with link := { s.link with controlLine := none, controlSecond := false } }
  | e :: es =>
    { s with
      link := { s.link with controlLine := e.second, controlSecond := false }
      out := { s.out with entries := es } }

/-- A frame boundary of the Control Port: the second part of an answer in progress, else the oldest upstream frame,
else the Outbound Queue (R180). Nothing is sent while the reset is asserted, nor after it until a frame has reached the part:
the PART EVENT notices of a reference that comes first wait in the Outbound Queue (R161, R192; log entry 29). -/
def controlBoundary (s : State) : State :=
  if maySend s then
    if s.link.controlSecond then sendSecond s
    else
      match s.link.upstream with
      | f :: fs => { s with link := { s.link with controlLine := some f, upstream := fs } }
      | [] => sendEntry s
  else s

end Sys2Proof.Machine
end

