-- ==== Sys2Proof/Machine/FrameCommands.lean ====
section
/-! DEFINITION. The meanings of the frame commands: each is the reception of its frame at its port, where R173 or R175
classifies it. A frame whose bytes are another row's (a CALL whose mode byte is another's, a frame addressed
elsewhere) is taken as its bytes say. -/

namespace Sys2Proof.Machine

/-- The outcome of a command. -/
abbrev Out := Host.Outcome State Fault Refusal

/-- CANDIDATE_DISCARD: bytes arrive at a receiver that bring about the discard of a candidate (R171). -/
def execCandidateDiscard (p : Port) (bytes : List Byte) (s : State) : Out := .next (takeBytes p bytes s)

/-- CALL_QUEUE: a CALL frame arrives, mode QUEUE (R84 to R88). -/
def execCallQueue (m : Msg) (s : State) : Out := .next (receive .control (m.frame (cameraCode .call)) s)

/-- CALL_NEXT: a CALL frame arrives, mode NEXT (R84 to R88). -/
def execCallNext (m : Msg) (s : State) : Out := .next (receive .control (m.frame (cameraCode .call)) s)

/-- CUT: a CALL frame arrives, mode CUT (R84, R85, R89, R90). -/
def execCut (m : Msg) (s : State) : Out := .next (receive .control (m.frame (cameraCode .call)) s)

/-- JOG (R142 to R145). -/
def execJog (m : Msg) (s : State) : Out := .next (receive .control (m.frame (cameraCode .jog)) s)

/-- HALT (R75). -/
def execHalt (m : Msg) (s : State) : Out := .next (receive .control (m.frame (cameraCode .halt)) s)

/-- BROADCAST_HALT: a HALT frame to address 31 (R76, R174). -/
def execBroadcastHalt (m : Msg) (s : State) : Out := .next (receive .control (m.frame (cameraCode .halt)) s)

/-- RESUME (R77). -/
def execResume (m : Msg) (s : State) : Out := .next (receive .control (m.frame (cameraCode .resume)) s)

/-- FLUSH (R94). -/
def execFlush (m : Msg) (s : State) : Out := .next (receive .control (m.frame (cameraCode .flush)) s)

/-- RECOVER (R71). -/
def execRecover (m : Msg) (s : State) : Out := .next (receive .control (m.frame (cameraCode .recover)) s)

/-- QUERY (R79). -/
def execQuery (m : Msg) (s : State) : Out := .next (receive .control (m.frame (cameraCode .query)) s)

/-- TALLY (R72, R73). -/
def execTally (m : Msg) (s : State) : Out := .next (receive .control (m.frame (partCode .tally)) s)

/-- SHOT WRITE (R6 to R8). -/
def execShotWrite (m : Msg) (s : State) : Out := .next (receive .control (m.frame (partCode .shotWrite)) s)

/-- SHOT ERASE (R9). -/
def execShotErase (m : Msg) (s : State) : Out := .next (receive .control (m.frame (partCode .shotErase)) s)

/-- SHOT READ with the next flag clear (R10). -/
def execShotRead (m : Msg) (s : State) : Out := .next (receive .control (m.frame (partCode .shotRead)) s)

/-- SHOT READ with the next flag set (R11). -/
def execShotReadNext (m : Msg) (s : State) : Out := .next (receive .control (m.frame (partCode .shotRead)) s)

/-- VERIFY (R15 to R18). -/
def execVerify (m : Msg) (s : State) : Out := .next (receive .control (m.frame (partCode .verify)) s)

/-- LIMIT WRITE (R22 to R25). -/
def execLimitWrite (m : Msg) (s : State) : Out := .next (receive .control (m.frame (partCode .limitWrite)) s)

/-- LIMIT READ (R29). -/
def execLimitRead (m : Msg) (s : State) : Out := .next (receive .control (m.frame (partCode .limitRead)) s)

/-- CAMERA WRITE (R55 to R59). -/
def execCameraWrite (m : Msg) (s : State) : Out := .next (receive .control (m.frame (partCode .cameraWrite)) s)

/-- CAMERA READ (R61). -/
def execCameraRead (m : Msg) (s : State) : Out := .next (receive .control (m.frame (partCode .cameraRead)) s)

/-- ZONE READ (R137). -/
def execZoneRead (m : Msg) (s : State) : Out := .next (receive .control (m.frame (partCode .zoneRead)) s)

/-- ZONE RELEASE (R136). -/
def execZoneRelease (m : Msg) (s : State) : Out := .next (receive .control (m.frame (partCode .zoneRelease)) s)

/-- PART QUERY (R191). -/
def execPartQuery (m : Msg) (s : State) : Out := .next (receive .control (m.frame (partCode .partQuery)) s)

/-- RESET frame (R193). -/
def execReset (m : Msg) (s : State) : Out := .next (receive .control (m.frame (partCode .reset)) s)

/-- BAD_KIND_FRAME: a frame of a kind the part does not take at its address (R173). -/
def execBadKindFrame (f : Frame) (s : State) : Out := .next (receive .control f s)

/-- FORWARD_DOWNSTREAM: a Control Port frame that is not the part's business (R173, R176). -/
def execForwardDownstream (f : Frame) (s : State) : Out := .next (receive .control f s)

/-- POSITION (R64 to R66, R117, R175). -/
def execPosition (m : Msg) (s : State) : Out := .next (receive .head (m.frame (headCode .position)) s)

/-- ALARM (R68, R175). -/
def execAlarm (m : Msg) (s : State) : Out := .next (receive .head (m.frame (headCode .alarm)) s)

/-- MANUAL REQUEST (R151, R175). -/
def execManualRequest (m : Msg) (s : State) : Out := .next (receive .head (m.frame (headCode .manualRequest)) s)

/-- MANUAL RELEASE (R155, R175). -/
def execManualRelease (m : Msg) (s : State) : Out := .next (receive .head (m.frame (headCode .manualRelease)) s)

/-- FORWARD_UPSTREAM: a Head Port frame that is not consumed (R175, R176). -/
def execForwardUpstream (f : Frame) (s : State) : Out := .next (receive .head f s)

end Sys2Proof.Machine
end

