-- ==== Sys2Proof/Machine/EventCommands.lean ====
section
/-! DEFINITION. The meanings of the other commands: reset, the reference, the steps a field event comes to at a channel,
grants, the admission of a parked call, and the frame boundaries. Where a command names a step that the state does
not come to, the step does not come about and nothing changes (log entry 4). -/

namespace Sys2Proof.Machine

/-! ## Reset (R192) -/

/-- POWER_ON_RESET (R192). -/
def execPowerOnReset (straps : BitVec 5) (s : State) : Out := .next (releaseReset straps s)

/-- RESET_PIN_ASSERT (R192). -/
def execResetPinAssert (s : State) : Out := .next (assertReset s)

/-! ## Reference (R159 to R166) -/

/-- REFERENCE_PULSE (R161 to R164). -/
def execReferencePulse (t : Nat) (takers : List Taker) (s : State) : Out := .next (pulseCommand t takers s)

/-- WINDOW_ELAPSED_LIMIT (R162). -/
def execWindowElapsedLimit (s : State) : Out := .next (windowLimitCommand s)

/-- FLYWHEEL_TIMER_EXPIRY (R159, R165). -/
def execFlywheelTimerExpiry (takers : List Taker) (s : State) : Out := .next (expiryCommand takers s)

/-! ## Steps of a channel's field event (R62) -/

/-- A channel takes the field event delivered to it, where that comes to the step named. -/
def fieldStep (comesTo : Channel → Bool) (c : Chan) (s : State) : State :=
  if !s.resetHeld && (s.chan c).fieldDue && comesTo (s.chan c) then takeField c s else s

/-- PROFILE_COMPLETE (R111). -/
def execProfileComplete (c : Chan) (s : State) : Out := .next (fieldStep endsProfile c s)

/-- STOP_RAMP_COMPLETE (R115). -/
def execStopRampComplete (c : Chan) (s : State) : Out := .next (fieldStep endsStop c s)

/-- JOG_DEADMAN (R146). -/
def execJogDeadman (c : Chan) (s : State) : Out := .next (fieldStep reachesDeadman c s)

/-- JOG_END (R147). -/
def execJogEnd (c : Chan) (s : State) : Out := .next (fieldStep endsJog c s)

/-- ZONE_TIMEOUT (R107). -/
def execZoneTimeout (c : Chan) (s : State) : Out := .next (fieldStep expiresZoneWait c s)

/-- SETTLE_TIMEOUT (R118). -/
def execSettleTimeout (c : Chan) (s : State) : Out := .next (fieldStep expiresSettle c s)

/-- REPORT_LOSS (R67). -/
def execReportLoss (c : Chan) (s : State) : Out := .next (fieldStep losesReports c s)

/-- MANUAL_WAIT_TIMEOUT (R153). -/
def execManualWaitTimeout (c : Chan) (s : State) : Out := .next (fieldStep expiresManualWait c s)

/-! ## Grants and the Park Order (R91, R108, R154) -/

/-- The waiter of a channel that a walk would grant now, of a kind (R129). -/
def grantable (k : WaiterKind) (c : Chan) (s : State) : Option Waiter :=
  (walkPass s.floor.owners [] s.floor.waiters).2.2.find? fun w => w.channel == c && w.kind == k

/-- A waiter that a walk grants takes its zones whole, leaves the list, and its channel takes the grant (R129, R131). -/
def grantStep (k : WaiterKind) (c : Chan) (s : State) : State :=
  if s.resetHeld then s
  else
    match grantable k c s with
    | some w =>
      let s := dropWaiter c s
      takeGrant walk { s with floor := { s.floor with owners := ownZones s.floor.owners c w.zones } } w
    | none => s

/-- ZONE_GRANT (R108). -/
def execZoneGrant (c : Chan) (s : State) : Out := .next (grantStep .move c s)

/-- MANUAL_GRANT (R154). -/
def execManualGrant (c : Chan) (s : State) : Out := .next (grantStep .manual c s)

/-- The oldest parked call is admitted into a free entry (R91). -/
def admitOldest (s : State) : State :=
  match s.parkOrder with
  | [] => s
  | c :: _ =>
    match (s.chan c).parked with
    | some call => if s.poolFree = 0 then s else admitParked c call { s with poolFree := s.poolFree - 1 }
    | none => s

/-- PARKED_CALL_ADMISSION (R91). -/
def execParkedCallAdmission (s : State) : Out := .next (if s.resetHeld then s else admitOldest s)

/-! ## Frame boundaries (R179, R180) -/

/-- HEAD_PORT_FRAME_BOUNDARY (R179). -/
def execHeadPortFrameBoundary (s : State) : Out := .next (headBoundary s)

/-- CONTROL_PORT_FRAME_BOUNDARY (R180). -/
def execControlPortFrameBoundary (s : State) : Out := .next (controlBoundary s)

end Sys2Proof.Machine
end

