-- ==== Sys2Proof/Machine/Dispatch.lean ====
section
/-! DEFINITION. exec: one arm per command, each one call of its meaning. -/

namespace Sys2Proof.Machine

/-- The effect of a command on everything but the queue of commands. -/
def exec (i : Instr) (s : State) : Host.Outcome State Fault Refusal :=
  match i with
  | .powerOnReset straps => Sys2Proof.Machine.execPowerOnReset straps s
  | .resetPinAssert => Sys2Proof.Machine.execResetPinAssert s
  | .candidateDiscard p bytes => Sys2Proof.Machine.execCandidateDiscard p bytes s
  | .callQueue m => Sys2Proof.Machine.execCallQueue m s
  | .callNext m => Sys2Proof.Machine.execCallNext m s
  | .cut m => Sys2Proof.Machine.execCut m s
  | .jog m => Sys2Proof.Machine.execJog m s
  | .halt m => Sys2Proof.Machine.execHalt m s
  | .broadcastHalt m => Sys2Proof.Machine.execBroadcastHalt m s
  | .resume m => Sys2Proof.Machine.execResume m s
  | .flush m => Sys2Proof.Machine.execFlush m s
  | .recover m => Sys2Proof.Machine.execRecover m s
  | .query m => Sys2Proof.Machine.execQuery m s
  | .tally m => Sys2Proof.Machine.execTally m s
  | .shotWrite m => Sys2Proof.Machine.execShotWrite m s
  | .shotErase m => Sys2Proof.Machine.execShotErase m s
  | .shotRead m => Sys2Proof.Machine.execShotRead m s
  | .shotReadNext m => Sys2Proof.Machine.execShotReadNext m s
  | .verify m => Sys2Proof.Machine.execVerify m s
  | .limitWrite m => Sys2Proof.Machine.execLimitWrite m s
  | .limitRead m => Sys2Proof.Machine.execLimitRead m s
  | .cameraWrite m => Sys2Proof.Machine.execCameraWrite m s
  | .cameraRead m => Sys2Proof.Machine.execCameraRead m s
  | .zoneRead m => Sys2Proof.Machine.execZoneRead m s
  | .zoneRelease m => Sys2Proof.Machine.execZoneRelease m s
  | .partQuery m => Sys2Proof.Machine.execPartQuery m s
  | .reset m => Sys2Proof.Machine.execReset m s
  | .badKindFrame f => Sys2Proof.Machine.execBadKindFrame f s
  | .forwardDownstream f => Sys2Proof.Machine.execForwardDownstream f s
  | .position m => Sys2Proof.Machine.execPosition m s
  | .alarm m => Sys2Proof.Machine.execAlarm m s
  | .manualRequest m => Sys2Proof.Machine.execManualRequest m s
  | .manualRelease m => Sys2Proof.Machine.execManualRelease m s
  | .forwardUpstream f => Sys2Proof.Machine.execForwardUpstream f s
  | .referencePulse t takers => Sys2Proof.Machine.execReferencePulse t takers s
  | .windowElapsedLimit => Sys2Proof.Machine.execWindowElapsedLimit s
  | .flywheelTimerExpiry takers => Sys2Proof.Machine.execFlywheelTimerExpiry takers s
  | .profileComplete c => Sys2Proof.Machine.execProfileComplete c s
  | .stopRampComplete c => Sys2Proof.Machine.execStopRampComplete c s
  | .jogDeadman c => Sys2Proof.Machine.execJogDeadman c s
  | .jogEnd c => Sys2Proof.Machine.execJogEnd c s
  | .zoneTimeout c => Sys2Proof.Machine.execZoneTimeout c s
  | .settleTimeout c => Sys2Proof.Machine.execSettleTimeout c s
  | .reportLoss c => Sys2Proof.Machine.execReportLoss c s
  | .manualWaitTimeout c => Sys2Proof.Machine.execManualWaitTimeout c s
  | .zoneGrant c => Sys2Proof.Machine.execZoneGrant c s
  | .manualGrant c => Sys2Proof.Machine.execManualGrant c s
  | .parkedCallAdmission => Sys2Proof.Machine.execParkedCallAdmission s
  | .headPortFrameBoundary => Sys2Proof.Machine.execHeadPortFrameBoundary s
  | .controlPortFrameBoundary => Sys2Proof.Machine.execControlPortFrameBoundary s

end Sys2Proof.Machine
end

