-- ==== Sys2Proof/WellFormed.lean ====
section
/-! DEFINITION. Which commands are well formed: the operands that a received frame or an event of a row can have.
exec gives every command a meaning, well formed or not. -/

namespace Sys2Proof

/-- A payload that a frame can carry (R170). -/
def payloadFits (payload : List Byte) : Bool := payload.length ≤ Config.maxPayload

/-- A link address, 0 to 31 (R170). -/
def isAddress (b : Byte) : Bool := b.toNat ≤ 31

/-- A received frame names link addresses and its payload fits (R170, R171). -/
def msgOk (m : Msg) : Bool := isAddress m.dest && isAddress m.source && payloadFits m.payload

/-- The same for a frame of any kind. -/
def frameOk (f : Frame) : Bool := isAddress f.dest && isAddress f.source && payloadFits f.payload

/-- The mode byte of a CALL payload of 7 bytes (R182). -/
def callModeByte : List Byte → Option Byte
  | [_, _, m, _, _, _, _] => some m
  | _ => none

/-- The next flag of a SHOT READ payload of 4 bytes (R10). -/
def nextFlagByte : List Byte → Option Byte
  | [_, _, _, b] => some b
  | _ => none

/-- A kind the part does not take at its own address and does not forward from there (R173). -/
def isBadKind (kind : Byte) : Bool := kind.toNat < 0x20 || (0x2C < kind.toNat && kind.toNat < 0x80)

/-- Well-formed commands. CALL_QUEUE stands for every CALL that is neither a NEXT nor a CUT, SHOT_READ for every SHOT
READ whose next flag is not set; takers of a field event are named once. -/
def wellFormed : Instr → Bool
  | .powerOnReset _ => true
  | .resetPinAssert => true
  | .candidateDiscard _ bytes => !bytes.isEmpty
  | .callQueue m => msgOk m && callModeByte m.payload != some 1 && callModeByte m.payload != some 2
  | .callNext m => msgOk m && callModeByte m.payload == some 1
  | .cut m => msgOk m && callModeByte m.payload == some 2
  | .jog m => msgOk m
  | .halt m => msgOk m && m.dest != Config.broadcastAddress
  | .broadcastHalt m => msgOk m && m.dest == Config.broadcastAddress
  | .resume m => msgOk m
  | .flush m => msgOk m
  | .recover m => msgOk m
  | .query m => msgOk m
  | .tally m => msgOk m
  | .shotWrite m => msgOk m
  | .shotErase m => msgOk m
  | .shotRead m => msgOk m && nextFlagByte m.payload != some 1
  | .shotReadNext m => msgOk m && nextFlagByte m.payload == some 1
  | .verify m => msgOk m
  | .limitWrite m => msgOk m
  | .limitRead m => msgOk m
  | .cameraWrite m => msgOk m
  | .cameraRead m => msgOk m
  | .zoneRead m => msgOk m
  | .zoneRelease m => msgOk m
  | .partQuery m => msgOk m
  | .reset m => msgOk m
  | .badKindFrame f => frameOk f && isBadKind f.kind
  | .forwardDownstream f => frameOk f
  | .position m => msgOk m
  | .alarm m => msgOk m
  | .manualRequest m => msgOk m
  | .manualRelease m => msgOk m
  | .forwardUpstream f => frameOk f
  | .referencePulse _ takers => decide takers.Nodup
  | .windowElapsedLimit => true
  | .flywheelTimerExpiry takers => decide takers.Nodup
  | .profileComplete _ => true
  | .stopRampComplete _ => true
  | .jogDeadman _ => true
  | .jogEnd _ => true
  | .zoneTimeout _ => true
  | .settleTimeout _ => true
  | .reportLoss _ => true
  | .manualWaitTimeout _ => true
  | .zoneGrant _ => true
  | .manualGrant _ => true
  | .parkedCallAdmission => true
  | .headPortFrameBoundary => true
  | .controlPortFrameBoundary => true

end Sys2Proof
end

