-- ==== Sys2Proof/Safety.lean ====
section
/-! DEFINITION. What a good state of the part is, in the terms the statements use: the part's own invariants (R1, R20,
R22, R54, R80, R82, R83, R126, R127, R130, R176, R178, R185), the shape of an answered command, and what notices, the end
of a move and entry into FAULT leave (R70, R122, R187). -/

namespace Sys2Proof.Machine

/-! ## Invariants -/

/-- The shot directory: at most 512 records, in strictly ascending order of key, so no key twice (R1). -/
abbrev DirectoryOk (s : State) : Prop :=
  s.shots.length ≤ Config.shotCapacity ∧ s.shots.Pairwise fun x y => shotBefore x y = true

/-- A limit record's live rates are not above its ordinary rates (R22). -/
abbrev LiveRatesOk (l : Limits) : Prop := l.vlive ≤ l.vmax ∧ l.alive ≤ l.amax

/-- Every effective record, and every pending one, of every channel axis keeps the live-rate rule (R22). -/
def LimitsOk (s : State) : Prop :=
  ∀ c a, LiveRatesOk ((s.chan c).limits.get a) ∧ ∀ l, (s.chan c).pendingLimits.get a = some l → LiveRatesOk l

/-- The Outbound Queue: occupied and reserved places together are at most 32 (R185). -/
abbrev OutboundOk (s : State) : Prop := s.out.entries.length + s.out.reserved ≤ Config.outboundCapacity

/-- The forward queues and the head control list are within their capacities (R176, R178). -/
abbrev LinkOk (s : State) : Prop :=
  s.link.downstream.length ≤ Config.downstreamCapacity ∧ s.link.upstream.length ≤ Config.upstreamCapacity
    ∧ s.link.headControl.length ≤ Config.headControlCapacity

/-- Pool entries a channel holds: its queued entries and its active cue (R80). -/
def entriesHeld (ch : Channel) : Nat := ch.queue.length + (hasActive ch).toNat

/-- Pool entries all channels hold together. -/
def poolHeld (s : State) : Nat := (allChans.map fun c => entriesHeld (s.chan c)).sum

/-- Free, queued and active entries together number 64 (R80). -/
abbrev PoolOk (s : State) : Prop := s.poolFree + poolHeld s = Config.poolSize

/-- The Reference Monitor: in LOCKED no window is active, a window has counted fewer than 8 pulses, and neither the
flywheel's expiry nor the window's limit has been passed (R158, R161). -/
def MonitorOk (s : State) : Prop :=
  s.monitor.now ≤ s.monitor.flywheelAt
    ∧ (s.monitor.state = .locked → s.monitor.window = none)
    ∧ ∀ w, s.monitor.window = some w →
        w.pulses < Config.windowPulses ∧ w.startAt ≤ s.monitor.now ∧ s.monitor.now ≤ windowEnd w

/-- The held period: 15,000 to 21,000 µs (R158). -/
abbrev HeldPeriodOk (s : State) : Prop := 15000 ≤ s.monitor.heldPeriod ∧ s.monitor.heldPeriod ≤ 21000

/-- Counts stay in their ranges: following-error counts 0 to 3 and report age 0 to 255 (R53). -/
def CountsOk (s : State) : Prop :=
  ∀ c, (s.chan c).reportAge ≤ Config.maxReportAge ∧ ∀ a, (s.chan c).followErrors.get a ≤ Config.followErrorLimit

/-- A pending limit record exists only while its channel is in the motion set (R24, R26). -/
def PendingOk (s : State) : Prop :=
  ∀ c, inMotion (s.chan c).phase = false → (s.chan c).pendingLimits = .all none

/-- A shot record a SHOT WRITE could have stored (R3, R6). -/
def ShotOk (r : Shot) : Prop :=
  1 ≤ r.number ∧ r.number ≤ 999
    ∧ (∀ e, r.ease = some e → 1 ≤ e ∧ e ≤ 255)
    ∧ (∀ d, r.duration = some d → 2 ≤ d ∧ d ≤ 4095)
    ∧ r.route.length ≤ 8 ∧ r.rest.length ≤ 4 ∧ r.route.Nodup ∧ r.rest.Nodup
    ∧ ∀ a t, r.targets.get a = some t → Config.positionMin ≤ t ∧ t ≤ Config.positionMax

/-- A limit record within the ranges of its fields (R20, R23). -/
abbrev LimitRangeOk (l : Limits) : Prop :=
  (Config.positionMin ≤ l.minPos ∧ l.minPos < l.maxPos ∧ l.maxPos ≤ Config.positionMax)
    ∧ (1 ≤ l.vmax ∧ l.vmax ≤ 65535) ∧ (1 ≤ l.amax ∧ l.amax ≤ 65535) ∧ (1 ≤ l.vlive ∧ l.vlive ≤ 65535)
    ∧ (1 ≤ l.alive ∧ l.alive ≤ 65535) ∧ (1 ≤ l.astop ∧ l.astop ≤ 65535) ∧ l.follow ≤ 65535 ∧ l.window ≤ 65535

/-- A configuration record within the ranges of its fields (R54, R55). -/
abbrev ConfigOk (r : CameraConfig) : Prop :=
  r.link.toNat ≤ 30 ∧ (1 ≤ r.defaultEase ∧ r.defaultEase ≤ 255) ∧ r.queueLimit ≤ 8 ∧ r.zoneWaitLimit ≤ 4095
    ∧ (1 ≤ r.settleLimit ∧ r.settleLimit ≤ 255) ∧ (1 ≤ r.reportTimeout ∧ r.reportTimeout ≤ 255)
    ∧ r.manualZones.length ≤ 8 ∧ r.manualZones.Nodup

/-- Every stored record is within its ranges, and the link addresses are in order: the part's is 1 to 30, a channel is
mapped exactly while its own is not 0, and no mapped channel's is the part's or another channel's (R3, R20, R23, R54,
R55, R169). -/
structure RecordsOk (s : State) : Prop where
  address : 1 ≤ s.partAddress.toNat ∧ s.partAddress.toNat ≤ 30
  shots : ∀ r ∈ s.shots, ShotOk r
  limits : ∀ c a, LimitRangeOk ((s.chan c).limits.get a)
  pendingLimits : ∀ c a l, (s.chan c).pendingLimits.get a = some l → LimitRangeOk l
  config : ∀ c, ConfigOk (s.chan c).config
  mapped : ∀ c, (s.chan c).phase = .vacant ↔ (s.chan c).config.link = 0
  links : ∀ c, (s.chan c).config.link ≠ 0 →
    (s.chan c).config.link ≠ s.partAddress ∧ ∀ d, (s.chan d).config.link = (s.chan c).config.link → d = c

/-- Until a frame has reached the part both transmit lines are idle (R192). -/
abbrev QuietOk (s : State) : Prop := s.link.reached = false → s.link.headLine = none ∧ s.link.controlLine = none

/-- The part's own invariant: its directory, its records, limit records, counts, queues and reference stay in their
ranges, and it emits nothing until a frame has reached it. -/
structure PartOk (s : State) : Prop where
  directory : DirectoryOk s
  limits : LimitsOk s
  pendingLimits : PendingOk s
  counts : CountsOk s
  outbound : OutboundOk s
  link : LinkOk s
  quiet : QuietOk s
  monitor : MonitorOk s
  heldPeriod : HeldPeriodOk s
  records : RecordsOk s

/-- Entries a channel's queue has or may still be given: its queue, its active cue and its parked call are at most 8
together, so that its queue never has more than 8 (R82, R88). -/
abbrev QueueOk (ch : Channel) : Prop :=
  ch.queue.length + (hasActive ch).toNat + ch.parked.isSome.toNat ≤ Config.queueCapacity

/-- A waiter belongs to a channel that waits for it, with the zones of its request (R127). -/
def WaiterOk (s : State) (w : Waiter) : Prop :=
  match w.kind with
  | .move => ∃ m, (s.chan w.channel).phase = .zoneWait m ∧ w.zones = m.zones
  | .manual => ∃ r n, (s.chan w.channel).phase = .manualWait r n ∧ w.zones = (s.chan w.channel).config.manualZones

/-- The invariant of the Cue Manager and the Zone Arbiter: 64 entries in all (R80); the Park Order lists exactly the
channels with a parked call, once each, and only while no entry is free (R83); the waiters are exactly the channels in
ZONE_WAIT and MANUAL_WAIT, once each (R127); a VACANT channel owns no zone and holds no cue (R83, R126). -/
structure CueFloorOk (s : State) : Prop where
  pool : PoolOk s
  queues : ∀ c, QueueOk (s.chan c)
  parkNodup : s.parkOrder.Nodup
  parkExact : ∀ c, c ∈ s.parkOrder ↔ (s.chan c).parked.isSome = true
  parkFull : s.parkOrder ≠ [] → s.poolFree = 0
  waiterNodup : (s.floor.waiters.map Waiter.channel).Nodup
  waiterOk : ∀ w ∈ s.floor.waiters, WaiterOk s w
  waiting : ∀ c, (∃ m, (s.chan c).phase = .zoneWait m) ∨ (∃ r n, (s.chan c).phase = .manualWait r n) →
    ∃ w ∈ s.floor.waiters, w.channel = c
  vacant : ∀ c, (s.chan c).phase = .vacant →
    (s.chan c).queue = [] ∧ (s.chan c).parked = none ∧ ∀ z, s.floor.owners.get z ≠ some c

/-- No waiter on the list would be granted by a walk (R129, R130). -/
abbrev Walked (s : State) : Prop := (walkPass s.floor.owners [] s.floor.waiters).2.2 = []

/-- A zone a request of a channel is granted beside the waiters on the list: its own, or one that is free and in no
waiter's set (R128). -/
abbrev ZoneOpen (s : State) (c : Chan) (z : Zone) : Prop :=
  s.floor.owners.get z = some c ∨ (s.floor.owners.get z = none ∧ ∀ w ∈ s.floor.waiters, z ∉ w.zones)

/-- Between events every walk is complete: no waiter left on the list would be granted (R130). A waiting move has the
post-state IDLE, since HALT ends its wait (R75, R105), so that its end at a grant makes no request. -/
structure WalkedOk (s : State) : Prop where
  posts : ∀ c m, (s.chan c).phase = .zoneWait m → m.post = .idle
  walked : Walked s

/-! ## What a command may write -/

/-- The commands that may write the shot directory (R7 to R9, R192), those of a frame of any kind among them. -/
def writesShots : Instr → Bool
  | .powerOnReset _ | .candidateDiscard _ _ | .shotWrite _ | .shotErase _ | .badKindFrame _ | .forwardDownstream _ => true
  | _ => false

/-- The commands that may write a configuration record (R55, R192), those of a frame of any kind among them. -/
def writesConfig : Instr → Bool
  | .powerOnReset _ | .candidateDiscard _ _ | .cameraWrite _ | .badKindFrame _ | .forwardDownstream _ => true
  | _ => false

/-- The commands that may write the Reference Monitor (R159 to R165, R192). -/
def writesMonitor : Instr → Bool
  | .powerOnReset _ | .referencePulse _ _ | .windowElapsedLimit | .flywheelTimerExpiry _ => true
  | _ => false

/-- The frame commands: each is the arrival of one frame at a port (R171). -/
def bringsFrame : Instr → Bool
  | .callQueue _ | .callNext _ | .cut _ | .jog _ | .halt _ | .broadcastHalt _ | .resume _ | .flush _ | .recover _
  | .query _ | .tally _ | .shotWrite _ | .shotErase _ | .shotRead _ | .shotReadNext _ | .verify _ | .limitWrite _
  | .limitRead _ | .cameraWrite _ | .cameraRead _ | .zoneRead _ | .zoneRelease _ | .partQuery _ | .reset _
  | .badKindFrame _ | .forwardDownstream _ | .position _ | .alarm _ | .manualRequest _ | .manualRelease _
  | .forwardUpstream _ => true
  | _ => false

/-- The commands that act at one channel: a camera command at its link address, a frame from its head, a step of its
field event, and a grant to it. -/
def ActsAt (s : State) (x : Chan) : Instr → Prop
  | .callQueue m | .callNext m | .cut m | .jog m | .halt m | .resume m | .flush m | .recover m | .query m =>
    m.dest ≠ s.partAddress ∧ s.channelAt m.dest = some x
  | .position m | .alarm m | .manualRequest m | .manualRelease m => s.channelAt m.source = some x
  | .profileComplete c | .stopRampComplete c | .jogDeadman c | .jogEnd c | .zoneTimeout c | .settleTimeout c
  | .reportLoss c | .manualWaitTimeout c | .zoneGrant c | .manualGrant c => c = x
  | _ => False

/-! ## The shape of an answered command -/

/-- A frame can be received: the part is not held in reset, and the frame names link addresses (R171, R192). -/
abbrev Receivable (s : State) (f : Frame) : Prop := s.resetHeld = false ∧ addressed f = true

/-- A frame arrives at the part's own address and finds room for its answer (R173, R186). -/
abbrev AtPart (s : State) (m : Msg) (kind : Byte) : Prop :=
  Receivable s (m.frame kind) ∧ m.dest = s.partAddress ∧ s.outFree ≠ 0

/-- A frame arrives at the link address of the mapped channel c (R173). -/
abbrev AtCamera (s : State) (m : Msg) (kind : Byte) (c : Chan) : Prop :=
  Receivable s (m.frame kind) ∧ m.dest ≠ s.partAddress ∧ s.channelAt m.dest = some c

/-- A frame arrives at the Head Port from the head of the mapped channel c (R175). -/
abbrev FromHead (s : State) (m : Msg) (kind : Byte) (c : Chan) : Prop :=
  Receivable s (m.frame kind) ∧ s.channelAt m.source = some c

/-- A field event is due to a channel whose report age does not reach its report timeout at it (R62, R67). -/
abbrev FieldReady (s : State) (c : Chan) : Prop :=
  s.resetHeld = false ∧ (s.chan c).fieldDue = true
    ∧ min Config.maxReportAge ((s.chan c).reportAge + 1) < (s.chan c).config.reportTimeout

/-- The state after a command that only adds an answer: its entry last in the Outbound Queue, the Control Port receiver
hunting again, and a frame having reached the part (R192). -/
def withAnswer (s : State) (kind : Byte) (r : Reply) : State :=
  { s with
    out := { s.out with entries := s.out.entries ++ [answerEntry s kind r] }
    link := { s.link with controlRx := [], reached := true } }

/-- The state with the Control Port receiver hunting again, a frame having reached the part (R192), and nothing else
changed. -/
def afterControl (s : State) : State := { s with link := { s.link with controlRx := [], reached := true } }

/-- The state with the Head Port receiver hunting again, a frame having reached the part (R192), and nothing else changed. -/
def afterHead (s : State) : State := { s with link := { s.link with headRx := [], reached := true } }

/-- The Outbound Queue with a notice added, when an entry is free, and otherwise with the notice-lost flag set (R187). -/
def withNotice (s : State) (payload : List Byte) : Outbound :=
  if s.outFree = 0 then { s.out with noticeLost := true }
  else { s.out with entries := s.out.entries ++ [⟨noticeFrame s payload, none⟩] }

/-- A move that has a profile: its ease is at least 1, its duration at least twice the ease, and W and Q follow (R37). -/
abbrev ShapedMove (m : Move) : Prop :=
  1 ≤ m.ease ∧ 2 * m.ease ≤ m.dur ∧ m.w = m.dur - m.ease ∧ m.q = 2 * m.ease * m.w

/-! ## Notices (R124, R187, R190) -/

/-- The payload of a MOVE END notice: its kind 1, the channel, the tag, the shot, the outcome, the three flags, T used and
the interrupted cause (R124, R184). That the flags byte's bits 3 to 7 are 0 is the model's reading (log entry 28). -/
def moveEndNotice (c : Chan) (shot : Nat) (tag : BitVec 16) (outcome : Byte) (clamped stretched live : Bool) (used : Nat)
    (cause : Byte) : List Byte :=
  [1, chanByte c] ++ be16 tag.toNat ++ be16 shot
    ++ [outcome, (if clamped then 1 else 0) ||| (if stretched then 2 else 0) ||| (if live then 4 else 0)]
    ++ be16 used ++ [cause]

/-- The MOVE END notice of a move: its cue's tag and shot, its flags and T used as the record holds them (R124). -/
def moveNotice (c : Chan) (m : Move) (outcome cause : Byte) : List Byte :=
  moveEndNotice c m.cue.shot m.cue.tag outcome m.clamped m.stretched m.live m.dur cause

/-- The MOVE END notice of a cue that never started: flags clear, T used and cause 0 (R95). -/
def waitingNotice (c : Chan) (shot : Nat) (tag : BitVec 16) (outcome : Byte) : List Byte :=
  moveEndNotice c shot tag outcome false false false 0 0

/-- The notices FLUSHED (6) of released cues, and DISPLACED (7) of a parked call (R95, R184). -/
def flushedNotices (c : Chan) (qs : List Cue) : List (List Byte) := qs.map fun q => waitingNotice c q.shot q.tag 6
def displacedNotice (c : Chan) (parked : Option ParkedCall) : List (List Byte) :=
  parked.toList.map fun p => waitingNotice c p.shot p.tag 7

/-- The entries that notices make of the free places of the Outbound Queue, some of which are taken: the first of them
that find a place are queued, and the others are discarded (R187). -/
def noticesKept (s : State) (taken : Nat) (payloads : List (List Byte)) : List OutEntry :=
  (payloads.take (s.outFree - taken)).map fun p => ⟨noticeFrame s p, none⟩

/-- From s to t notices have joined the Outbound Queue first and in order, those that found no place have set the
notice-lost flag, and nothing has left the queue (R187). -/
def Noticed (s t : State) (taken : Nat) (payloads : List (List Byte)) : Prop :=
  s.out.entries ++ noticesKept s taken payloads <+: t.out.entries
    ∧ (s.outFree - taken < payloads.length → t.out.noticeLost = true)

/-- A queue's cues in the order of their admission ranks (R91). -/
def InRankOrder (qs queue : List Cue) : Prop := qs.Perm queue ∧ qs.Pairwise fun x y => x.rank ≤ y.rank

/-! ## The end of a move and entry into FAULT (R70, R122, R123) -/

/-- The channel waits as a move, or has no waiter on the list. -/
abbrev NoOtherWaiter (s : State) (c : Chan) : Prop :=
  (∃ m, (s.chan c).phase = .zoneWait m) ∨ ∀ w ∈ s.floor.waiters, w.channel ≠ c

/-- The channel's pending limit records are applied and none is left (R26). -/
def LimitsApplied (s t : State) (c : Chan) : Prop :=
  ∀ a, (t.chan c).pendingLimits.get a = none
    ∧ (t.chan c).limits.get a = match (s.chan c).pendingLimits.get a with
      | some l => clampLive l
      | none => (s.chan c).limits.get a

/-- An entry has been released: to the free list when no call was parked, else to the oldest parked call (R91). -/
def EntryReleased (s t : State) : Prop :=
  (s.parkOrder = [] → s.poolFree + 1 ≤ t.poolFree ∧ t.parkOrder = [])
    ∧ ∀ d rest, s.parkOrder = d :: rest → (s.chan d).parked.isSome = true → t.parkOrder.length < s.parkOrder.length

/-- A channel rests: in IDLE, or in HELD, where a set manual-pending flag is served at once by a manual request, which is
granted whole or waits (R122, R152). -/
def RestsIn (s t : State) (c : Chan) (r : RestState) : Prop :=
  (r = .idle ∨ (s.chan c).manualPending = false →
    (t.chan c).phase = (if r = .idle then .idle else .held) ∧ (t.chan c).manualPending = (s.chan c).manualPending)
  ∧ (r = .held → (s.chan c).manualPending = true → NoOtherWaiter s c →
    (t.chan c).manualPending = false
    ∧ (((t.chan c).phase = .manualWait .held 0
          ∧ ⟨c, .manual, (s.chan c).config.manualZones⟩ ∈ t.floor.waiters)
      ∨ ((t.chan c).phase = .manual .held
          ∧ ∀ z ∈ (s.chan c).config.manualZones, t.floor.owners.get z = some c)))

/-- The zones a channel owns after it comes to rest: of those it owned the ones kept, and besides them only those that
the grant of a pending manual request may give it (R123, R154). -/
def ZonesAfterEnd (s t : State) (c : Chan) (kept : Zone → Prop) (r : RestState) : Prop :=
  NoOtherWaiter s c →
    (∀ z, kept z → s.floor.owners.get z = some c → t.floor.owners.get z = some c)
    ∧ (r = .idle ∨ (s.chan c).manualPending = false →
        ∀ z, t.floor.owners.get z = some c ↔ kept z ∧ s.floor.owners.get z = some c)

/-- What the end of a move that a channel carries leaves (R26, R91, R122 to R124): its notice with the outcome's number and
no interrupted cause, the last completed shot, its entry released, its limits applied, its zones and its rest. -/
structure MoveEnded (s t : State) (c : Chan) (m : Move) (o : MoveOutcome) (number : Byte) (kept : Zone → Prop)
    (r : RestState) (taken : Nat) : Prop where
  noticed : Noticed s t taken [moveNotice c m number 0]
  last : (t.chan c).last = some (m.cue.shot, o)
  entry : EntryReleased s t
  limits : LimitsApplied s t c
  zones : ZonesAfterEnd s t c kept r
  rests : RestsIn s t c r

/-- The interrupted cause of a move that a fault ends: that of the stop in STOPPING, else none (R124, R184). -/
def faultCause : Phase → Byte
  | .stopping _ st => match st.cause with | .superseded => 3 | .halted => 4 | .tallyStop => 5
  | _ => 0

/-- What entry of a channel into FAULT leaves (R70, R120, R123): its move ended FAULTED (12) with every zone kept, its
waiter withdrawn, a manual request denied, and its commanded positions taken from the reported ones, when valid. -/
structure FaultEntered (s t : State) (c : Chan) (r : FaultReason) : Prop where
  phase : (t.chan c).phase = .fault
  manualPending : (t.chan c).manualPending = false
  positions : (t.chan c).valid = (s.chan c).valid
    ∧ ((s.chan c).valid = true → ∀ a, (t.chan c).commanded.get a = (t.chan c).reported.get a
        ∧ (t.chan c).history.get a = History.fill ((t.chan c).reported.get a))
    ∧ ((s.chan c).valid = false → (t.chan c).commanded = (s.chan c).commanded)
  ended : ∀ m, moveOf (s.chan c).phase = some m →
    Noticed s t 0 [moveNotice c m 12 (faultCause (s.chan c).phase)] ∧ (t.chan c).last = some (m.cue.shot, .faulted)
      ∧ EntryReleased s t
  unmoved : moveOf (s.chan c).phase = none → (t.chan c).last = (s.chan c).last
  notice : t.out.noticeLost = true ∨ t.out.entries.getLast?
    = some ⟨noticeFrame s (cameraEventPayload c (.fault r)), none⟩
  zones : ∀ z, t.floor.owners.get z = some c ↔ s.floor.owners.get z = some c
  withdrawn : (∃ m, (s.chan c).phase = .zoneWait m) ∨ (∃ q n, (s.chan c).phase = .manualWait q n) →
    ∀ w ∈ t.floor.waiters, w.channel ≠ c
  floor : (∀ m, (s.chan c).phase ≠ .zoneWait m) → (∀ q n, (s.chan c).phase ≠ .manualWait q n) → t.floor = s.floor
  limits : inMotion (s.chan c).phase = true → LimitsApplied s t c
  denied : (∃ q n, (s.chan c).phase = .manualWait q n) ∨ (s.chan c).manualPending = true →
    16 ≤ t.link.headControl.length ∨ t.link.headControl.getLast?
      = some ⟨(s.chan c).config.link, s.partAddress, 0x52, [2]⟩
  undenied : (∀ m, (s.chan c).phase ≠ .zoneWait m) → (∀ q n, (s.chan c).phase ≠ .manualWait q n) →
    (s.chan c).manualPending = false → t.link.headControl = s.link.headControl

end Sys2Proof.Machine
end

