-- ==== Sys2Proof/Certificates/Slice0/Obligations.lean ====
section
/-! DEFINITION. The statements for the provers: what the commands and the machine do, by the rules of spec/. -/

open Sys2Proof Sys2Proof.Machine

/-! ## The step -/

/-- A step takes the command at the front of the queue and runs it with the queue's rest. -/
def Obligations.StepRunsFrontCommand : Prop :=
  ∀ (c : Instr) (s : State), step { s with pending := c :: s.pending } = exec c s

/-- The model's choice of log entry 2: on an empty queue the block does what is left of the latest field event, the
Head Port first and then the channels in ascending order, and otherwise idles. -/
def Obligations.EmptyQueueStepFinishesFieldEvent : Prop :=
  ∀ s : State, s.pending = [] →
    (s.resetHeld = false → s.monitor.headDue = true →
      step s = .next { s with
        link := { s.link with batch := s.link.nextBatch, nextBatch := Batch.empty }
        monitor := { s.monitor with headDue := false } })
    ∧ (∀ c, s.resetHeld = false → s.monitor.headDue = false → (s.chan c).fieldDue = true →
        (∀ d, d < c → (s.chan d).fieldDue = false) → step s = .next (takeField c s))
    ∧ (s.resetHeld = true ∨ (s.monitor.headDue = false ∧ ∀ c, (s.chan c).fieldDue = false) → step s = .next s)

/-- Every command answers a next state, leaves the queue of commands as it was, and keeps what it does not write: the
part address, the shots, the configuration records, the Reference Monitor and the frames on the lines. R192: from the
release of the reset, the arrival of a frame alone makes that a frame has reached the part. R75, R91, R129:
a command that acts at one channel leaves every other channel that does not wait for zones as it was, but for its
queue, its ranks and its parked call, which the release of an entry may change.
That RESET_PIN_ASSERT keeps the shots, the configuration records and the Reference Monitor, and that a held part keeps all
of it under every other command, is the model's reading (log entry 9); that every frame received reaches the part, at either
port and though it is then discarded, is another (log entry 29). -/
def Obligations.EveryCommandKeepsWhatItDoesNotWrite : Prop :=
  ∀ (c : Instr) (s : State), ∃ t, exec c s = .next t ∧ t.pending = s.pending
    ∧ ((∀ straps, c ≠ .powerOnReset straps) → t.partAddress = s.partAddress
      ∧ (c ≠ .resetPinAssert →
        t.resetHeld = s.resetHeld
        ∧ (c ≠ .headPortFrameBoundary → t.link.headLine = s.link.headLine)
        ∧ (c ≠ .controlPortFrameBoundary → t.link.controlLine = s.link.controlLine)))
    ∧ ((∀ straps, c ≠ .powerOnReset straps) →
      (s.link.reached = true → t.link.reached = true)
      ∧ (bringsFrame c = false → (∀ p bytes, c ≠ .candidateDiscard p bytes) → t.link.reached = s.link.reached)
      ∧ (bringsFrame c = true → s.resetHeld = false → t.link.reached = true))
    ∧ (writesShots c = false → t.shots = s.shots)
    ∧ (writesConfig c = false → ∀ d, (t.chan d).config = (s.chan d).config)
    ∧ (writesMonitor c = false → t.monitor = s.monitor)
    ∧ ∀ x d, ActsAt s x c → d ≠ x → (∀ m, (s.chan d).phase ≠ .zoneWait m) →
        (∀ r n, (s.chan d).phase ≠ .manualWait r n) →
        ∃ queue rank parked, t.chan d = { s.chan d with queue := queue, nextRank := rank, parked := parked }

/-- R192: the condition that the release of power-on reset or RESET_N leaves, whatever the state before it (R63, R78,
R158 and the other rules that own each value). R192 says of an asserted RESET_N that both lines are idle and no byte is
received; that the rest of the state is kept at the assertion, and that until the release no other command has an effect,
is the model's reading (log entry 9). -/
def Obligations.ResetPinHoldsPartAndReleaseInitialisesEveryBlock : Prop :=
  (∀ (straps : BitVec 5) (s : State), ∃ t, exec (.powerOnReset straps) s = .next t
    ∧ t.resetHeld = false
    ∧ t.partAddress.toNat = (if straps.toNat = 0 ∨ straps.toNat = 31 then 30 else straps.toNat)
    ∧ t.shots = []
    ∧ (∀ c a, (t.chan c).limits.get a = ⟨-8388608, 8388607, 100, 10, 20, 2, 20, 0, 0⟩
        ∧ (t.chan c).pendingLimits.get a = none)
    ∧ (∀ c, (t.chan c).config = ⟨0, .all true, 12, 4, 250, 25, 10, 2, []⟩ ∧ (t.chan c).phase = .vacant
        ∧ (t.chan c).tally = .offAir ∧ (t.chan c).queue = [] ∧ (t.chan c).nextRank = 0 ∧ (t.chan c).parked = none
        ∧ (t.chan c).valid = false ∧ (t.chan c).manualPending = false ∧ (t.chan c).last = none
        ∧ (t.chan c).reportAge = 0 ∧ (t.chan c).headStatus = 0 ∧ (t.chan c).fieldDue = false)
    ∧ (∀ c a, (t.chan c).commanded.get a = 0 ∧ (t.chan c).reported.get a = 0 ∧ (t.chan c).followErrors.get a = 0
        ∧ (∀ i, ((t.chan c).history.get a).get i = 0)
        ∧ (t.chan c).snapshot.commanded.get a = 0 ∧ (t.chan c).snapshot.reported.get a = 0)
    ∧ t.poolFree = 64 ∧ t.parkOrder = []
    ∧ (∀ z, t.floor.owners.get z = none) ∧ t.floor.waiters = []
    ∧ t.monitor.state = .absent ∧ t.monitor.heldPeriod = 20000 ∧ t.monitor.flywheelAt = t.monitor.now + 20000
    ∧ t.monitor.lastFieldAt = t.monitor.now ∧ t.monitor.window = none ∧ t.monitor.headDue = false
    ∧ t.link.downstream = [] ∧ t.link.upstream = [] ∧ t.link.headControl = []
    ∧ (∀ c, t.link.batch.get c = none ∧ t.link.nextBatch.get c = none)
    ∧ t.link.controlRx = [] ∧ t.link.headRx = [] ∧ t.link.headLine = none ∧ t.link.controlLine = none
    ∧ t.link.controlSecond = false ∧ t.link.reached = false
    ∧ t.out.entries = [] ∧ t.out.reserved = 0 ∧ t.out.noticeLost = false
    ∧ t.pending = s.pending)
  ∧ (∀ s : State,
    exec .resetPinAssert s = .next { s with
      resetHeld := true
      link := { s.link with headLine := none, controlLine := none } }
    ∧ ∀ c : Instr, s.resetHeld = true → (∀ straps, c ≠ .powerOnReset straps) → c ≠ .resetPinAssert →
        exec c s = .next s)

/-- R171: a frame that names an address above 31 is discarded, whatever frame command it is. R172: a frame the part
answers that has the wrong length is answered BAD_LENGTH with nothing changed; a TALLY, a JOG, a MANUAL REQUEST and a
MANUAL RELEASE of the wrong length are discarded; a POSITION and an ALARM of the wrong length are forwarded and not
delivered. R175: so are a POSITION and an ALARM of an address that is no mapped channel's, and a MANUAL REQUEST and a
MANUAL RELEASE of one are discarded. That one whose source is the part's own address is discarded too, and not forwarded,
is the model's choice (log entry 27); that each of these frames has reached the part as R192 has it, though it is discarded,
is its reading (log entry 29). -/
def Obligations.WrongLengthsAndStrayAddressesChangeNothing : Prop :=
  (∀ (s : State) (m : Msg) (kind : Byte), s.resetHeld = false → 31 < m.dest.toNat ∨ 31 < m.source.toNat →
    (∀ i ∈ [Instr.callQueue m, .callNext m, .cut m, .jog m, .halt m, .broadcastHalt m, .resume m, .flush m, .recover m,
        .query m, .tally m, .shotWrite m, .shotErase m, .shotRead m, .shotReadNext m, .verify m, .limitWrite m,
        .limitRead m, .cameraWrite m, .cameraRead m, .zoneRead m, .zoneRelease m, .partQuery m, .reset m,
        .badKindFrame (m.frame kind), .forwardDownstream (m.frame kind)], exec i s = .next (afterControl s))
    ∧ ∀ i ∈ [Instr.position m, .alarm m, .manualRequest m, .manualRelease m, .forwardUpstream (m.frame kind)],
        exec i s = .next (afterHead s))
  ∧ (∀ (s : State) (m : Msg) (i : Instr) (kind : Byte) (n : Nat),
    (i, kind, n) ∈ ([(.shotErase m, 0x22, 3), (.shotRead m, 0x23, 4), (.shotReadNext m, 0x23, 4), (.verify m, 0x24, 5),
        (.limitRead m, 0x26, 2), (.cameraRead m, 0x28, 1), (.zoneRead m, 0x29, 0), (.zoneRelease m, 0x2A, 1),
        (.partQuery m, 0x2B, 0), (.reset m, 0x2C, 1)] : List (Instr × Byte × Nat)) →
    AtPart s m kind → m.payload.length ≠ n → exec i s = .next (withAnswer s kind (refuse .badLength)))
  ∧ (∀ (s : State) (m : Msg) (i : Instr) (kind : Byte) (c : Chan),
    (i, kind) ∈ ([(.halt m, 0x12), (.resume m, 0x13), (.flush m, 0x14), (.recover m, 0x15), (.query m, 0x16)]
        : List (Instr × Byte)) →
    AtCamera s m kind c → s.outFree ≠ 0 → m.payload ≠ [] → exec i s = .next (withAnswer s kind (refuse .badLength)))
  ∧ (∀ (s : State) (m : Msg),
    let axes := fun mask : Byte => 3 * (allAxes.filter fun a => mask.getLsbD a.number).length
    let stray := s.channelAt m.source = none
    (Receivable s (m.frame 0x20) → m.dest = s.partAddress → m.payload.length ≠ 2 →
      exec (.tally m) s = .next (afterControl s))
    ∧ (∀ c, AtCamera s m 0x11 c → m.payload = [] ∨ (∃ mask bytes, m.payload = mask :: bytes
          ∧ (64 ≤ mask.toNat ∨ bytes.length ≠ axes mask)) → exec (.jog m) s = .next (afterControl s))
    ∧ (Receivable s (m.frame 0x62) → m.payload ≠ [] ∨ stray → exec (.manualRequest m) s = .next (afterHead s))
    ∧ (Receivable s (m.frame 0x63) → m.payload ≠ [] ∨ stray → exec (.manualRelease m) s = .next (afterHead s))
    ∧ (Receivable s (m.frame 0x61) → m.payload.length ≠ 1 ∨ stray →
      exec (.alarm m) s = .next (forwardUp (m.frame 0x61) (afterHead s)))
    ∧ (Receivable s (m.frame 0x60) → stray ∨ m.payload.length < 2 ∨ (∃ status mask bytes,
          m.payload = status :: mask :: bytes ∧ (64 ≤ mask.toNat ∨ bytes.length ≠ axes mask)) →
      exec (.position m) s = .next (forwardUp (m.frame 0x60) (afterHead s))))

/-- R186: a frame that requires an answer and finds no free entry of the Outbound Queue changes no state of the part
but its receiver. That it is nonetheless a frame that has reached the part is the model's reading of R192 (log entry 29). -/
def Obligations.AnsweredFrameWithoutEntryIsDiscarded : Prop :=
  ∀ (s : State) (f : Frame), Receivable s f → s.outFree = 0 →
    ((f.dest = s.partAddress ∧ f.kind ≠ partCode .tally ∧ f.kind.toNat < 0x80)
      ∨ (f.dest ≠ s.partAddress ∧ (∃ c, s.channelAt f.dest = some c) ∧ 0x10 ≤ f.kind.toNat ∧ f.kind.toNat ≤ 0x16
          ∧ f.kind ≠ cameraCode .jog)) →
    receive .control f s = afterControl s

/-! ## The Shot Table -/

/-- R6 to R8: an accepted SHOT WRITE stores the record of the frame under its key, in place of the one there or as a
new one, and changes no other record. R6: the refusals of a SHOT WRITE, none of which changes the directory. That the
replaced byte of the answer is 1 for yes is the model's reading (log entry 6). -/
def Obligations.ShotWriteStoresOrRefusesRecord : Prop :=
  (∀ (s : State) (m : Msg) (f : ShotFields) (r : Shot), AtPart s m (partCode .shotWrite) → DirectoryOk s →
    readShot m.payload = some f → shotOf f = some r →
    (s.findShot r.channel r.number).isSome ∨ s.shots.length < 512 →
    ∃ rs, exec (.shotWrite m) s = .next (withAnswer { s with shots := rs } 0x21
        (reply .ok (chanByte r.channel :: be16 r.number ++ flagByte (s.findShot r.channel r.number).isSome
          ++ be16 rs.length)))
      ∧ (∀ c n, { s with shots := rs }.findShot c n
          = if c = r.channel ∧ n = r.number then some r else s.findShot c n)
      ∧ rs.length = s.shots.length + (if (s.findShot r.channel r.number).isSome then 0 else 1))
  ∧ (∀ (s : State) (m : Msg), AtPart s m (partCode .shotWrite) →
    (readShot m.payload = none → exec (.shotWrite m) s = .next (withAnswer s 0x21 (refuse .badLength)))
    ∧ ∀ f, readShot m.payload = some f →
      (16 ≤ f.channel.toNat ∨ f.number = 0 ∨ 999 < f.number ∨ 8 ≤ f.flags.toNat ∨ f.ease = some 0
          ∨ (∃ d, f.duration = some d ∧ (d < 2 ∨ 4095 < d)) ∨ 8 < f.route.length ∨ 4 < f.rest.length
          ∨ (∃ b ∈ f.route ++ f.rest, 24 ≤ b.toNat) ∨ ¬ f.route.Nodup ∨ ¬ f.rest.Nodup →
        exec (.shotWrite m) s = .next (withAnswer s 0x21 (refuse .badParam)))
      ∧ (f.channel.toNat < 16 ∧ f.number ≠ 0 ∧ f.number ≤ 999 ∧ f.flags.toNat < 8 ∧ f.ease ≠ some 0
          ∧ (∀ d, f.duration = some d → 2 ≤ d ∧ d ≤ 4095) ∧ f.route.length ≤ 8 ∧ f.rest.length ≤ 4
          ∧ (∀ b ∈ f.route ++ f.rest, b.toNat < 24) ∧ f.route.Nodup ∧ f.rest.Nodup →
        ∃ r, shotOf f = some r
          ∧ (s.findShot r.channel r.number = none → 512 ≤ s.shots.length →
              exec (.shotWrite m) s = .next (withAnswer s 0x21 (refuse .tableFull)))))

/-- R9: SHOT ERASE removes the record of its key and no other. -/
def Obligations.ShotEraseRemovesOneRecord : Prop :=
  ∀ (s : State) (m : Msg) (b n1 n0 : Byte), AtPart s m (partCode .shotErase) → DirectoryOk s →
    m.payload = [b, n1, n0] →
    (16 ≤ b.toNat ∨ u16 n1 n0 = 0 ∨ 999 < u16 n1 n0 →
      exec (.shotErase m) s = .next (withAnswer s 0x22 (refuse .badParam)))
    ∧ ∀ c, chanOf b = some c → u16 n1 n0 ≠ 0 → u16 n1 n0 ≤ 999 →
      (s.findShot c (u16 n1 n0) = none → exec (.shotErase m) s = .next (withAnswer s 0x22 (refuse .notFound)))
      ∧ ((s.findShot c (u16 n1 n0)).isSome →
          ∃ rs, exec (.shotErase m) s = .next (withAnswer { s with shots := rs } 0x22
              (reply .ok (b :: n1 :: n0 :: be16 rs.length)))
            ∧ (∀ d n, { s with shots := rs }.findShot d n
                = if d = c ∧ n = u16 n1 n0 then none else s.findShot d n)
            ∧ rs.length + 1 = s.shots.length)

/-- R10: a SHOT READ with a channel, a shot number or a next flag out of range is refused BAD_PARAM, and one with the
next flag clear answers the record of its exact key; neither changes anything. R11: one with the next flag set answers
the channel's record of the smallest shot number at or above the one given, and changes nothing. -/
def Obligations.ShotReadAnswersExactKeyOrSmallestAbove : Prop :=
  (∀ (s : State) (m : Msg) (b n1 n0 flag : Byte), AtPart s m (partCode .shotRead) → m.payload = [b, n1, n0, flag] →
    16 ≤ b.toNat ∨ u16 n1 n0 = 0 ∨ 999 < u16 n1 n0 ∨ 1 < flag.toNat →
    ∀ i ∈ [Instr.shotRead m, .shotReadNext m], exec i s = .next (withAnswer s 0x23 (refuse .badParam)))
  ∧ (∀ (s : State) (m : Msg) (b n1 n0 : Byte), AtPart s m (partCode .shotRead) → m.payload = [b, n1, n0, 0] →
    (16 ≤ b.toNat ∨ u16 n1 n0 = 0 ∨ 999 < u16 n1 n0 →
      exec (.shotRead m) s = .next (withAnswer s 0x23 (refuse .badParam)))
    ∧ ∀ c, chanOf b = some c → u16 n1 n0 ≠ 0 → u16 n1 n0 ≤ 999 →
      (s.findShot c (u16 n1 n0) = none → exec (.shotRead m) s = .next (withAnswer s 0x23 (refuse .notFound)))
      ∧ ∀ r, s.findShot c (u16 n1 n0) = some r →
          exec (.shotRead m) s = .next (withAnswer s 0x23 (reply .ok (shotBytes r))))
  ∧ (∀ (s : State) (m : Msg) (b n1 n0 : Byte) (c : Chan), AtPart s m (partCode .shotRead) → DirectoryOk s →
    m.payload = [b, n1, n0, 1] → chanOf b = some c → u16 n1 n0 ≠ 0 → u16 n1 n0 ≤ 999 →
    ((∀ r ∈ s.shots, r.channel = c → r.number < u16 n1 n0) →
      exec (.shotReadNext m) s = .next (withAnswer s 0x23 (refuse .notFound)))
    ∧ ∀ r ∈ s.shots, r.channel = c → u16 n1 n0 ≤ r.number →
      (∀ x ∈ s.shots, x.channel = c → u16 n1 n0 ≤ x.number → r.number ≤ x.number) →
      exec (.shotReadNext m) s = .next (withAnswer s 0x23 (reply .ok (shotBytes r))))

/-- R16: the check code of a record, by the first of the four checks that fails. R15: a VERIFY with a channel, a first
shot number or a count out of range is refused BAD_PARAM. R15, R17, R18: VERIFY answers the
first failing record of its walk set with the count not verified, or that every record passes. -/
def Obligations.VerifyAnswersFirstFailure : Prop :=
  (∀ (ch : Channel) (r : Shot),
    let offMask := ∃ a, r.targets.get a ≠ none ∧ ch.config.mask.get a = false
    let offLimits := ∃ a t, r.targets.get a = some t ∧ (t < (ch.limits.get a).minPos ∨ (ch.limits.get a).maxPos < t)
    let shortEase := ∃ e d, r.ease = some e ∧ r.duration = some d ∧ d < 2 * e
    let shared := ∃ z ∈ r.route, z ∈ r.rest
    (checkShot ch r = .axis ↔ offMask)
    ∧ (checkShot ch r = .limit ↔ ¬offMask ∧ offLimits)
    ∧ (checkShot ch r = .ease ↔ ¬offMask ∧ ¬offLimits ∧ shortEase)
    ∧ (checkShot ch r = .zones ↔ ¬offMask ∧ ¬offLimits ∧ ¬shortEase ∧ shared)
    ∧ (checkShot ch r = .none ↔ ¬offMask ∧ ¬offLimits ∧ ¬shortEase ∧ ¬shared))
  ∧ (∀ (s : State) (m : Msg) (b s1 s0 n1 n0 : Byte), AtPart s m (partCode .verify) → m.payload = [b, s1, s0, n1, n0] →
    16 ≤ b.toNat ∨ u16 s1 s0 = 0 ∨ 999 < u16 s1 s0 ∨ 999 < u16 n1 n0 →
    exec (.verify m) s = .next (withAnswer s 0x24 (refuse .badParam)))
  ∧ (∀ (s : State) (m : Msg) (b s1 s0 n1 n0 : Byte) (c : Chan), AtPart s m (partCode .verify) →
    m.payload = [b, s1, s0, n1, n0] → chanOf b = some c → u16 s1 s0 ≠ 0 → u16 s1 s0 ≤ 999 → u16 n1 n0 ≤ 999 →
    let held := s.shots.filter fun r => r.channel == c && u16 s1 s0 ≤ r.number
    let set := if u16 n1 n0 = 0 then held else held.take (u16 n1 n0)
    (∀ passed r left, set = passed ++ r :: left → (∀ x ∈ passed, checkShot (s.chan c) x = .none) →
      checkShot (s.chan c) r ≠ .none →
      exec (.verify m) s = .next (withAnswer s 0x24 (reply .failed
        (chanByte c :: be16 r.number ++ [checkByte (checkShot (s.chan c) r)] ++ be16 (set.length - passed.length)))))
    ∧ ((∀ x ∈ set, checkShot (s.chan c) x = .none) →
      (u16 n1 n0 = 0 ∨ u16 n1 n0 ≤ held.length →
        exec (.verify m) s = .next (withAnswer s 0x24 (reply .ok (chanByte c :: be16 0 ++ [0] ++ be16 0))))
      ∧ (held.length < u16 n1 n0 →
        exec (.verify m) s = .next (withAnswer s 0x24
          (reply .okShort (chanByte c :: be16 0 ++ [0] ++ be16 held.length))))))

/-- R10, R183: a record read back can be written again unchanged. Every record a SHOT WRITE could have stored is read from
its own bytes as itself, and fits a frame. R29, R61, R189: so is every limit record and every configuration record of a
channel in their ranges. -/
def Obligations.StoredRecordsReadBackAsWritten : Prop :=
  (∀ r : Shot, ShotOk r →
    (∃ f, readShot (shotBytes r) = some f ∧ shotOf f = some r) ∧ (shotBytes r).length + 2 ≤ Config.maxPayload)
  ∧ (∀ (c : Chan) (a : Axis) (l : Limits), LimitRangeOk l →
    readLimit (chanByte c :: BitVec.ofNat 8 a.number :: limitBytes l) = some ⟨chanByte c, BitVec.ofNat 8 a.number, l⟩)
  ∧ (∀ (c : Chan) (r : CameraConfig), ConfigOk r →
    ∃ f, readCamera (cameraBytes c r) = some f ∧ f.channel = chanByte c ∧ cameraOf f = some r)

/-! ## The Axis Limit Store -/

/-- R22 to R25: an accepted LIMIT WRITE replaces one axis's effective record whole, or its pending record while the
channel is in the motion set, with the live rates clamped, and says which were clamped.
That bits 2 to 7 of the byte that says so are 0 is the model's reading (log entry 25). -/
def Obligations.LimitWriteStoresClampedRecord : Prop :=
  ∀ (s : State) (m : Msg), AtPart s m (partCode .limitWrite) →
    (m.payload.length ≠ 22 → exec (.limitWrite m) s = .next (withAnswer s 0x25 (refuse .badLength)))
    ∧ ∀ f, readLimit m.payload = some f →
      let l := f.limits
      let bad := l.maxPos ≤ l.minPos ∨ l.vmax = 0 ∨ l.amax = 0 ∨ l.vlive = 0 ∨ l.alive = 0 ∨ l.astop = 0
      let stored := { l with vlive := min l.vlive l.vmax, alive := min l.alive l.amax }
      let data := [f.channel, f.axis,
        BitVec.ofNat 8 ((if l.vmax < l.vlive then 1 else 0) + (if l.amax < l.alive then 2 else 0))]
      (16 ≤ f.channel.toNat ∨ 6 ≤ f.axis.toNat ∨ bad →
        exec (.limitWrite m) s = .next (withAnswer s 0x25 (refuse .badParam)))
      ∧ ∀ c a, chanOf f.channel = some c → Axis.ofNumber f.axis.toNat = some a → ¬bad →
        (inMotion (s.chan c).phase = false →
          exec (.limitWrite m) s = .next (withAnswer
            (s.modChan c fun ch => { ch with limits := ch.limits.set a stored }) 0x25 (reply .ok data)))
        ∧ (inMotion (s.chan c).phase = true →
          exec (.limitWrite m) s = .next (withAnswer
            (s.modChan c fun ch => { ch with pendingLimits := ch.pendingLimits.set a (some stored) }) 0x25
            (reply .okDeferred data)))

/-- R29: LIMIT READ answers the effective record of a channel axis and whether a record is pending, and changes
nothing. R61: CAMERA READ answers the configuration record and the present state, and changes nothing.
That the pending byte of LIMIT READ is 1 for yes is the model's reading (log entry 6). -/
def Obligations.LimitReadAndCameraReadAnswerRecords : Prop :=
  (∀ (s : State) (m : Msg) (b x : Byte), AtPart s m (partCode .limitRead) → m.payload = [b, x] →
    (16 ≤ b.toNat ∨ 6 ≤ x.toNat → exec (.limitRead m) s = .next (withAnswer s 0x26 (refuse .badParam)))
    ∧ ∀ c a, chanOf b = some c → Axis.ofNumber x.toNat = some a →
      exec (.limitRead m) s = .next (withAnswer s 0x26 (reply .ok
        ([b, x] ++ limitBytes ((s.chan c).limits.get a)
          ++ [if (s.chan c).pendingLimits.get a = none then 0 else 1]))))
  ∧ (∀ (s : State) (m : Msg), AtPart s m (partCode .cameraRead) →
    (∀ b : Byte, m.payload = [b] → 16 ≤ b.toNat →
      exec (.cameraRead m) s = .next (withAnswer s 0x28 (refuse .badParam)))
    ∧ ∀ c : Chan, m.payload = [chanByte c] →
      exec (.cameraRead m) s = .next (withAnswer s 0x28
        (reply .ok (cameraBytes c (s.chan c).config ++ [phaseByte (s.chan c).phase]))))

/-! ## The Profile Engine -/

/-- R35: the profile rounding is to nearest with halves away from zero, and a ceiling is the smallest integer not less
than the quotient. -/
def Obligations.ProfileRoundingIsNearestHalvesAway : Prop :=
  ∀ (x : Int) (y : Nat), 0 < y →
    (∀ a b : Nat, b < y → x.natAbs = a * y + b →
      (profileRound x y).natAbs = if 2 * b < y then a else a + 1)
    ∧ (0 ≤ x → 0 ≤ profileRound x y) ∧ (x ≤ 0 → profileRound x y ≤ 0)
    ∧ 2 * (profileRound x y * y - x).natAbs ≤ y
    ∧ profileRound (-x) y = -profileRound x y
    ∧ ∀ n q : Nat, n ≤ q * y ↔ ceilDiv n y ≤ q

/-- R4, R5, R34, R99, R105: what a start attempt takes into the move record from the cue, the shot and the channel: the
moved axes, their starts, clamped targets and distances, the zones, and the counts from 0. R36 to R38: the duration of a
planned move, its STRETCHED flag and its shape parameters. -/
def Obligations.PlannedMoveTakesShotAndLongestDuration : Prop :=
  ∀ (ch : Channel) (q : Cue) (r : Shot) (live : Bool),
    let m := planMove ch q r live
    let moving := fun a => m.moved.get a = true ∧ m.dist.get a ≠ 0
    let cruise := fun a => max
      (ceilDiv (m.dist.get a).natAbs (if live then (ch.limits.get a).vlive else (ch.limits.get a).vmax))
      (ceilDiv (m.dist.get a).natAbs ((if live then (ch.limits.get a).alive else (ch.limits.get a).amax) * m.ease))
    m.cue = q ∧ m.shot = r ∧ m.live = live ∧ m.field = 0 ∧ m.waitCount = 0 ∧ m.settleCount = 0 ∧ m.post = .idle
    ∧ (∀ a, m.moved.get a = true ↔ r.targets.get a ≠ none ∧ ch.config.mask.get a = true)
    ∧ (∀ a, m.start.get a = ch.commanded.get a ∧ m.dist.get a = m.target.get a - m.start.get a)
    ∧ (∀ a t, m.moved.get a = true → r.targets.get a = some t →
        m.target.get a = if t < (ch.limits.get a).minPos then (ch.limits.get a).minPos
          else if (ch.limits.get a).maxPos < t then (ch.limits.get a).maxPos else t)
    ∧ (∀ a, m.moved.get a = false → m.dist.get a = 0)
    ∧ (m.clamped = true ↔ ∃ a t, m.moved.get a = true ∧ r.targets.get a = some t ∧ m.target.get a ≠ t)
    ∧ (∀ z, z ∈ m.zones ↔ z ∈ r.route ∨ z ∈ r.rest) ∧ (r.route.Nodup → r.rest.Nodup → m.zones.Nodup)
    ∧ m.ease = r.ease.getD ch.config.defaultEase
    ∧ ((∀ a, ¬moving a) → m.dur = 0 ∧ m.stretched = false)
    ∧ ∀ a tmin, moving a → (∀ b, moving b → cruise b ≤ cruise a) → tmin = m.ease + cruise a →
      m.dur = max tmin (max (2 * m.ease) (q.override.getD (r.duration.getD 0)))
      ∧ (m.stretched = true ↔
          0 < q.override.getD (r.duration.getD 0) ∧ q.override.getD (r.duration.getD 0) < tmin)
      ∧ m.w = m.dur - m.ease ∧ m.q = 2 * m.ease * m.w

/-- R40: the profile numerator on its three ranges, its values where they meet and at both ends, and its steps. -/
def Obligations.ProfileNumeratorRisesFromZeroToQ : Prop :=
  ∀ r t : Nat, 1 ≤ r → 2 * r ≤ t →
    let w := t - r
    r ≤ w ∧ (t = 2 * r → w = r)
    ∧ (∀ k : Nat, k ≤ r → numerator r t k = (k : Int) * k)
    ∧ (∀ k : Nat, r ≤ k → k ≤ w → numerator r t k = 2 * r * k - r * r)
    ∧ (∀ k : Nat, w ≤ k → k ≤ t → numerator r t k = 2 * r * w - ((t : Int) - k) * ((t : Int) - k))
    ∧ numerator r t 0 = 0 ∧ numerator r t t = 2 * r * w
    ∧ (∀ k, k < r → numerator r t (k + 1) - numerator r t k = 2 * k + 1)
    ∧ (∀ k, r ≤ k → k < w → numerator r t (k + 1) - numerator r t k = 2 * r)
    ∧ (∀ k, w ≤ k → k < t → numerator r t (k + 1) - numerator r t k = 2 * ((t : Int) - k) - 1)
    ∧ ∀ k, k < t → 0 ≤ numerator r t (k + 1) - numerator r t k
        ∧ numerator r t (k + 1) - numerator r t k ≤ 2 * r

/-- R41: a profile starts at P0, ends at the clamped target exactly, stays between the two and never moves back. -/
def Obligations.ProfileRunsFromStartToTarget : Prop :=
  ∀ (m : Move) (a : Axis), ShapedMove m → m.target.get a = m.start.get a + m.dist.get a →
    profilePos m a 0 = m.start.get a
    ∧ profilePos m a m.dur = m.target.get a
    ∧ (∀ k, k ≤ m.dur → profilePos m a k
        = m.start.get a + profileRound (m.dist.get a * numerator m.ease m.dur k) (2 * m.ease * m.w))
    ∧ (∀ k j, k ≤ j → j ≤ m.dur →
        (0 ≤ m.dist.get a → m.start.get a ≤ profilePos m a k ∧ profilePos m a k ≤ profilePos m a j
          ∧ profilePos m a j ≤ m.target.get a)
        ∧ (m.dist.get a ≤ 0 → m.target.get a ≤ profilePos m a j ∧ profilePos m a j ≤ profilePos m a k
          ∧ profilePos m a k ≤ m.start.get a))

/-- R42: a planned move keeps the rates of each of its axes: no field's increment is above V, and no two successive
increments differ by more than A + 1. -/
def Obligations.ProfileIncrementsKeepRates : Prop :=
  ∀ (ch : Channel) (q : Cue) (r : Shot) (live : Bool) (a : Axis),
    let m := planMove ch q r live
    let v := if live then (ch.limits.get a).vlive else (ch.limits.get a).vmax
    let acc := if live then (ch.limits.get a).alive else (ch.limits.get a).amax
    let step := fun k => profilePos m a (k + 1) - profilePos m a k
    1 ≤ m.ease → (∀ b, 1 ≤ (rates (ch.limits.get b) live).1 ∧ 1 ≤ (rates (ch.limits.get b) live).2) →
    m.moved.get a = true → m.dur ≠ 0 →
    ∀ k, k < m.dur → (step k).natAbs ≤ v
      ∧ (k = 0 → (step k).natAbs ≤ acc + 1)
      ∧ (k + 1 < m.dur → (step (k + 1) - step k).natAbs ≤ acc + 1)

/-- R43: the four sub-points spread a field's increment evenly, the larger sub-steps first, and end at the field's
end position. -/
def Obligations.DitherSpreadsIncrementEvenly : Prop :=
  ∀ p p' : Int,
    let q := (p' - p).natAbs / 4
    let r := (p' - p).natAbs % 4
    let sign : Int := if p' < p then -1 else 1
    ∃ s1 s2 s3 s4, dither p p' = [s1, s2, s3, s4]
      ∧ s1 - p = sign * (if 0 < r then q + 1 else q) ∧ s2 - s1 = sign * (if 1 < r then q + 1 else q)
      ∧ s3 - s2 = sign * (if 2 < r then q + 1 else q) ∧ s4 - s3 = sign * q
      ∧ s4 = p'
      ∧ (p' = p → s1 = p ∧ s2 = p ∧ s3 = p)
      ∧ ∀ x ∈ [s1, s2, s3, s4], (p ≤ p' → p ≤ x ∧ x ≤ p') ∧ (p' ≤ p → p' ≤ x ∧ x ≤ p)

/-- R44 to R46: the stop record formed from a move, the stop position of each step, clamped to the travel, and where the
ramp ends. -/
def Obligations.StopRampStepsStayInTravelAndEndAtHalfVelocity : Prop :=
  (∀ (limits : PerAxis Limits) (m : Move) (k : StopCause) (a : Axis), m.moved.get a = true →
    let st := formStop limits m k
    st.base.get a = profilePos m a m.field
    ∧ st.vel.get a = (if m.field = 0 then 0 else profilePos m a m.field - profilePos m a (m.field - 1))
    ∧ st.step = 0 ∧ st.cause = k
    ∧ ceilDiv (st.vel.get a).natAbs (limits.get a).astop ≤ st.rs
    ∧ (st.rs ≠ 0 → ∃ b, m.moved.get b = true ∧ st.rs = ceilDiv (st.vel.get b).natAbs (limits.get b).astop))
  ∧ ∀ (l : Limits) (st : Stop) (a : Axis), l.minPos ≤ l.maxPos → 0 < st.rs →
    stopPos l st a 0 = st.base.get a
    ∧ (∀ j, 0 < j → j ≤ st.rs → stopPos l st a j = max l.minPos (min l.maxPos
        (st.base.get a + profileRound (st.vel.get a * (j * (2 * st.rs - j) : Nat)) (2 * st.rs))))
    ∧ (∀ j, 0 < j → l.minPos ≤ stopPos l st a j ∧ stopPos l st a j ≤ l.maxPos)
    ∧ stopPos l st a st.rs
        = max l.minPos (min l.maxPos (st.base.get a + profileRound (st.vel.get a * st.rs) 2))
    ∧ (st.vel.get a = 0 → l.minPos ≤ st.base.get a → st.base.get a ≤ l.maxPos → ∀ j, stopPos l st a j = st.base.get a)

/-- R48 to R50: a jog step moves the velocity toward the clamped demand by at most A, stops an axis at the end of its
travel, and holds an axis outside it that would go further out. -/
def Obligations.JogStepFollowsDemandAndStopsAtTravel : Prop :=
  ∀ (l : Limits) (t : Tally) (p : Int) (ja : JogAxis), l.minPos ≤ l.maxPos →
    let v : Int := if t = .onAir then l.vlive else l.vmax
    let acc : Int := if t = .onAir then l.alive else l.amax
    let d : Int := max (-v) (min v ja.demand)
    let u : Int := if (d - ja.velocity).natAbs ≤ acc.natAbs then d
      else if ja.velocity < d then ja.velocity + acc else ja.velocity - acc
    let r := jogStep l t p ja
    r.2.demand = ja.demand
    ∧ (l.minPos ≤ p → p ≤ l.maxPos → l.minPos ≤ r.1 ∧ r.1 ≤ l.maxPos)
    ∧ (p ≤ l.maxPos → l.maxPos < p + u → r = (l.maxPos, { ja with velocity := 0 }))
    ∧ (l.minPos ≤ p → p + u < l.minPos → r = (l.minPos, { ja with velocity := 0 }))
    ∧ (l.maxPos < p → 0 < u → r = (p, { ja with velocity := 0 }))
    ∧ (p < l.minPos → u < 0 → r = (p, { ja with velocity := 0 }))
    ∧ ((p ≤ l.maxPos → p + u ≤ l.maxPos) → (l.minPos ≤ p → l.minPos ≤ p + u) → (l.maxPos < p → u ≤ 0) →
        (p < l.minPos → 0 ≤ u) → r = (p + u, { ja with velocity := u }))

/-! ## Camera Channels -/

/-- R57, R58: an accepted CAMERA WRITE with a link address maps a VACANT channel, and gives a mapped one a new record.
R59: an accepted CAMERA WRITE with link address 0 unmaps a mapped channel: its queue flushed, its parked call
displaced, with the notices FLUSHED (6) in the order of admission rank and then DISPLACED (7) (R95), its zones freed
with a walk, and then VACANT.
That bits 3 to 7 of a MOVE END notice's flags byte are 0 is the model's reading (log entry 28). -/
def Obligations.CameraWriteMapsRewritesOrUnmaps : Prop :=
  (∀ (s : State) (m : Msg) (f : CameraFields) (c : Chan) (r : CameraConfig), AtPart s m (partCode .cameraWrite) →
    readCamera m.payload = some f → chanOf f.channel = some c → linkTaken s c f.link = false →
    cameraOf f = some r → r.queueLimit ≤ 8 →
    ((s.chan c).phase = .vacant → r.link ≠ 0 →
      exec (.cameraWrite m) s = .next (withAnswer
        (s.modChan c fun ch => { ch with
          config := r, phase := .idle, valid := false, history := .all (History.fill 0), snapshot := .zero,
          followErrors := .all 0, reportAge := 0, headStatus := 0, manualPending := false, last := none })
        0x27 (reply .ok [chanByte c, 1])))
    ∧ ((s.chan c).phase = .vacant → r.link = 0 →
      exec (.cameraWrite m) s = .next (withAnswer (s.modChan c fun ch => { ch with config := r })
        0x27 (reply .ok [chanByte c, 0])))
    ∧ ((s.chan c).phase = .idle ∨ (s.chan c).phase = .held ∨ (s.chan c).phase = .fault → r.link ≠ 0 →
      (r.link = (s.chan c).config.link →
        exec (.cameraWrite m) s = .next (withAnswer (s.modChan c fun ch => { ch with config := r })
          0x27 (reply .ok [chanByte c, phaseByte (s.chan c).phase])))
      ∧ (r.link ≠ (s.chan c).config.link →
        exec (.cameraWrite m) s = .next (withAnswer
          (s.modChan c fun ch => { ch with config := r, valid := false, reportAge := 0, headStatus := 0 })
          0x27 (reply .ok [chanByte c, phaseByte (s.chan c).phase])))))
  ∧ (∀ (s : State) (m : Msg) (f : CameraFields) (c : Chan) (r : CameraConfig), AtPart s m (partCode .cameraWrite) →
    readCamera m.payload = some f → chanOf f.channel = some c → cameraOf f = some r → r.queueLimit ≤ 8 → r.link = 0 →
    (s.chan c).phase = .idle ∨ (s.chan c).phase = .held ∨ (s.chan c).phase = .fault →
    ∃ t, exec (.cameraWrite m) s = .next t
      ∧ (t.chan c).phase = .vacant ∧ (t.chan c).config = r ∧ (t.chan c).valid = false
      ∧ (t.chan c).manualPending = false ∧ (t.chan c).last = none ∧ (t.chan c).reportAge = 0
      ∧ (∀ a, (t.chan c).followErrors.get a = 0) ∧ (t.chan c).queue = [] ∧ (t.chan c).parked = none
      ∧ (t.chan c).commanded = (s.chan c).commanded ∧ (t.chan c).reported = (s.chan c).reported
      ∧ (t.chan c).tally = (s.chan c).tally ∧ (t.chan c).limits = (s.chan c).limits
      ∧ ((∀ w ∈ s.floor.waiters, w.channel ≠ c) → ∀ z, t.floor.owners.get z ≠ some c)
      ∧ t.shots = s.shots ∧ t.monitor = s.monitor
      ∧ (∃ qs, InRankOrder qs (s.chan c).queue
          ∧ Noticed s t 1 (flushedNotices c qs ++ displacedNotice c (s.chan c).parked))
      ∧ t.out.entries.getLast? = some (answerEntry s 0x27 (reply .ok [chanByte c, 0])))

/-- R55, R56: the checks of a CAMERA WRITE in their order, and what each refusal leaves. -/
def Obligations.CameraWriteChecksInOrder : Prop :=
  ∀ (s : State) (m : Msg), AtPart s m (partCode .cameraWrite) →
    (readCamera m.payload = none → exec (.cameraWrite m) s = .next (withAnswer s 0x27 (refuse .badLength)))
    ∧ ∀ f, readCamera m.payload = some f →
      let bad := 31 ≤ f.link.toNat ∨ 64 ≤ f.mask.toNat ∨ f.defaultEase = 0 ∨ 4095 < f.zoneWaitLimit
        ∨ f.settleLimit = 0 ∨ f.reportTimeout = 0 ∨ 7 < f.latency ∨ 8 < f.manualZones.length
        ∨ (∃ b ∈ f.manualZones, 24 ≤ b.toNat) ∨ ¬ f.manualZones.Nodup
      (16 ≤ f.channel.toNat → exec (.cameraWrite m) s = .next (withAnswer s 0x27 (refuse .badParam)))
      ∧ ∀ c, chanOf f.channel = some c →
        let taken := f.link ≠ 0 ∧ (f.link = s.partAddress ∨ ∃ d, d ≠ c ∧ (s.chan d).config.link = f.link)
        let open_ := (s.chan c).phase = .vacant ∨ (s.chan c).phase = .idle ∨ (s.chan c).phase = .held
          ∨ (s.chan c).phase = .fault
        (¬open_ → exec (.cameraWrite m) s = .next (withAnswer s 0x27 (refuse .busy)))
        ∧ (open_ → taken ∨ bad → exec (.cameraWrite m) s = .next (withAnswer s 0x27 (refuse .badParam)))
        ∧ (open_ → ¬taken → ¬bad → 8 < f.queueLimit →
          exec (.cameraWrite m) s = .next (withAnswer
            (s.modChan c fun ch => { ch with config := { ch.config with queueLimit := 0 } }) 0x27 (refuse .badParam)))

/-- R75: HALT addressed to a mapped channel, by the channel's state; in ZONE_WAIT, and in MOVING where the ramp has no
step (R46, R114), the move ends HALTED (4) at once; an entry into HELD serves a pending manual request (R152). R71, R77:
RESUME takes a HELD channel to IDLE and RECOVER a channel in FAULT; in any other state each is refused and changes
nothing.
That the MOVE END notice of a move halted in ZONE_WAIT stands before what the walk of its withdrawal grants is the model's
choice (log entry 5).
That bits 3 to 7 of a MOVE END notice's flags byte are 0 is the model's reading (log entry 28). -/
def Obligations.HaltResumeAndRecoverActByChannelState : Prop :=
  (∀ (s : State) (m : Msg) (c : Chan), AtCamera s m (cameraCode .halt) c → s.outFree ≠ 0 → m.payload = [] →
    let answer := fun p => exec (.halt m) s = .next (withAnswer
      (s.modChan c fun ch => { ch with phase := p }) 0x12 (reply .ok [chanByte c]))
    let ends := fun mv => ∃ t, exec (.halt m) s = .next t
      ∧ MoveEnded s t c mv .halted 4 (fun _ => True) .held 1 ∧ (t.chan c).commanded = (s.chan c).commanded
      ∧ t.link.batch = s.link.batch ∧ t.shots = s.shots ∧ t.monitor = s.monitor
      ∧ t.out.entries.getLast? = some (answerEntry s 0x12 (reply .ok [chanByte c]))
    match (s.chan c).phase with
    | .vacant => True
    | .idle => ((s.chan c).manualPending = false → answer .held)
        ∧ ∃ t, exec (.halt m) s = .next t ∧ RestsIn s t c .held ∧ (t.chan c).last = (s.chan c).last
          ∧ t.shots = s.shots ∧ t.monitor = s.monitor
          ∧ t.out.entries.getLast? = some (answerEntry s 0x12 (reply .ok [chanByte c]))
    | .held => answer .held
    | .fault => answer .fault
    | .moving mv =>
        ((formStop (s.chan c).limits mv .halted).rs ≠ 0 →
          answer (.stopping { mv with post := .held } (formStop (s.chan c).limits mv .halted)))
        ∧ ((formStop (s.chan c).limits mv .halted).rs = 0 → ends mv)
    | .stopping mv st => answer (.stopping { mv with post := .held } st)
    | .settling mv => answer (.settling { mv with post := .held })
    | .jogging j => answer (.jogging { j with
        axes := .ofFn fun a => (j.axes.get a).map fun ja => { ja with demand := 0 }
        ret := .held })
    | .manualWait _ n => answer (.manualWait .held n)
    | .manual _ => answer (.manual .held)
    | .zoneWait mv => ends mv
        ∧ ∃ t, exec (.halt m) s = .next t ∧ ∀ w ∈ t.floor.waiters, w.channel = c →
            (s.chan c).manualPending = true ∧ w = ⟨c, .manual, (s.chan c).config.manualZones⟩)
  ∧ (∀ (s : State) (m : Msg) (c : Chan), s.outFree ≠ 0 → m.payload = [] →
    (AtCamera s m (cameraCode .resume) c →
      ((s.chan c).phase = .held →
        exec (.resume m) s = .next (withAnswer (s.modChan c fun ch => { ch with phase := .idle })
          0x13 (reply .ok [chanByte c])))
      ∧ ((s.chan c).phase ≠ .held → exec (.resume m) s = .next (withAnswer s 0x13 (refuse .notHeld))))
    ∧ (AtCamera s m (cameraCode .recover) c →
      ((s.chan c).phase = .fault →
        exec (.recover m) s = .next (withAnswer
          (s.modChan c fun ch => { ch with phase := .idle, followErrors := .all 0, reportAge := 0 })
          0x15 (reply .ok [chanByte c])))
      ∧ ((s.chan c).phase ≠ .fault → exec (.recover m) s = .next (withAnswer s 0x15 (refuse .notFaulted)))))

/-- R76, R174: a broadcast HALT is executed at every mapped channel by its own state, is forwarded downstream, and is not
answered: every entry it adds to the Outbound Queue is a notice. One walk runs after the last channel has taken it, over the
waiters that the withdrawals leave and then the manual requests, in the order of the channels. The notices of the channels
stand in ascending channel order, and those of the grants of that walk after them, in its order.
That bits 3 to 7 of a MOVE END notice's flags byte are 0 is the model's reading (log entry 28). -/
def Obligations.BroadcastHaltReachesEveryMappedChannel : Prop :=
  ∀ (s : State) (m : Msg), Receivable s (m.frame (cameraCode .halt)) → m.dest = 31 → m.payload = [] →
    s.partAddress ≠ 31 → s.channelAt 31 = none →
    let halted := fun c => match (s.chan c).phase with
      | .zoneWait mv => some mv
      | .moving mv => if (formStop (s.chan c).limits mv .halted).rs = 0 then some mv else none
      | _ => none
    let asks := fun c => (s.chan c).manualPending = true ∧ ((s.chan c).phase = .idle ∨ halted c ≠ none)
    let list := (s.floor.waiters.filter fun w => match (s.chan w.channel).phase with | .zoneWait _ => false | _ => true)
      ++ (allChans.filter fun c => asks c).map fun c => ⟨c, .manual, (s.chan c).config.manualZones⟩
    let r := walkPass s.floor.owners [] list
    let ends := allChans.flatMap fun c => (halted c).toList.map fun mv => moveNotice c mv 4 0
    let grants := r.2.2.map fun w => cameraEventPayload w.channel .manualGranted
    ∃ t, exec (.broadcastHalt m) s = .next t
      ∧ (∀ c,
        let ends := fun mv : Move => (t.chan c).last = some (mv.cue.shot, .halted) ∧ RestsIn s t c .held
          ∧ LimitsApplied s t c ∧ ZonesAfterEnd s t c (fun _ => True) .held
          ∧ (t.out.noticeLost = true ∨ ⟨noticeFrame s (moveNotice c mv 4 0), none⟩ ∈ t.out.entries)
        match (s.chan c).phase with
        | .idle => RestsIn s t c .held
        | .moving mv =>
            ((formStop (s.chan c).limits mv .halted).rs ≠ 0 →
              (t.chan c).phase = .stopping { mv with post := .held } (formStop (s.chan c).limits mv .halted))
            ∧ ((formStop (s.chan c).limits mv .halted).rs = 0 → ends mv)
        | .stopping mv st => (t.chan c).phase = .stopping { mv with post := .held } st
        | .settling mv => (t.chan c).phase = .settling { mv with post := .held }
        | .zoneWait mv => ends mv
        | .jogging j => (t.chan c).phase = .jogging { zeroDemands j with ret := .held }
        | .manual _ => (t.chan c).phase = .manual .held
        | .manualWait _ n => (t.chan c).phase = .manualWait .held n ∨ (t.chan c).phase = .manual .held
        | p => (t.chan c).phase = p)
      ∧ t.link.downstream = (if s.link.downstream.length < 8
          then s.link.downstream ++ [m.frame (cameraCode .halt)] else s.link.downstream)
      ∧ (∃ added, t.out.entries = s.out.entries ++ added ∧ ∀ e ∈ added, e.first.kind = 0x41 ∧ e.second = none)
      ∧ t.floor = ⟨r.1, r.2.1⟩ ∧ Noticed s t 0 ends
      ∧ (CueFloorOk s → t.out.entries = s.out.entries ++ noticesKept s 0 (ends ++ grants)
          ∧ t.out.noticeLost = (s.out.noticeLost || decide (s.outFree < (ends ++ grants).length)))
      ∧ t.out.reserved = s.out.reserved
      ∧ t.shots = s.shots ∧ t.monitor = s.monitor ∧ t.link.upstream = s.link.upstream

/-- R79, R189: QUERY answers 66 bytes, with the positions of the field snapshot and the present state, and changes nothing;
an absent field is sent as 0. That a flag byte, the tally's among them, is 1 for yes is the model's reading (log
entry 6), and so is that bits 4 to 7 of the presence byte are 0 (log entry 26). -/
def Obligations.QueryAnswersSnapshotAndPresentState : Prop :=
  ∀ (s : State) (m : Msg) (c : Chan), AtCamera s m (cameraCode .query) c → s.outFree ≠ 0 → m.payload = [] →
    let ch := s.chan c
    let flag := fun b : Bool => if b then (1 : Byte) else 0
    let state : Byte := match ch.phase with
      | .vacant => 0 | .idle => 1 | .zoneWait _ => 2 | .moving _ => 3 | .stopping _ _ => 4 | .settling _ => 5
      | .held => 6 | .jogging _ => 7 | .manualWait _ _ => 8 | .manual _ => 9 | .fault => 10
    let present : Byte := match ch.phase with
      | .zoneWait _ | .settling _ => 5 | .moving _ | .stopping _ _ => 3 | .manualWait _ _ => 4 | _ => 0
    let active := match ch.phase with
      | .zoneWait mv | .moving mv | .stopping mv _ | .settling mv => be16 mv.cue.shot ++ be16 mv.cue.tag.toNat
      | _ => [0, 0, 0, 0]
    let progress := match ch.phase with
      | .moving mv => be16 mv.field ++ be16 mv.dur
      | .stopping _ st => be16 st.step ++ be16 st.rs
      | _ => [0, 0, 0, 0]
    let count := match ch.phase with
      | .zoneWait mv => be16 mv.waitCount
      | .settling mv => be16 mv.settleCount
      | .manualWait _ n => be16 n
      | _ => [0, 0]
    let last := match ch.last with
      | some (n, o) => be16 n ++ [outcomeByte o]
      | none => [0, 0, 0]
    let data := [chanByte c, state, if ch.tally = .onAir then 1 else 0, flag ch.valid]
      ++ ch.snapshot.commanded.toList.flatMap be24 ++ ch.snapshot.reported.toList.flatMap be24
      ++ [BitVec.ofNat 8 ch.reportAge, ch.headStatus] ++ ch.followErrors.toList.map (BitVec.ofNat 8)
      ++ [BitVec.ofNat 8 ch.queue.length, flag ch.parked.isSome, present ||| (if ch.last = none then 0 else 8)]
      ++ active ++ progress ++ count
      ++ [flag (ch.pendingLimits.toList.any Option.isSome), flag ch.manualPending] ++ last
    exec (.query m) s = .next (withAnswer s 0x16 (reply .ok data)) ∧ data.length = 66

/-- R72, R73: a TALLY frame records every channel's tally, and a change to ON_AIR stops a move that is not LIVE, which
ends TALLY_STOP (5) at once where the ramp has no step (R46, R114), and sends a waiting cue that is not LIVE back to the
head of its queue. A LIVE move goes on, still LIVE, and a change to OFF_AIR keeps every state, save for what the frame's
walk grants; with every walk complete and no waiting cue sent back, that is nothing, and the floor is as it was.
That bits 3 to 7 of a MOVE END notice's flags byte are 0 is the model's reading (log entry 28). -/
def Obligations.TallyRecordsAndStopsMovesNotLive : Prop :=
  ∀ (s : State) (m : Msg) (hi lo : Byte), Receivable s (m.frame (partCode .tally)) → m.dest = s.partAddress →
    m.payload = [hi, lo] →
    let stops := fun c : Chan => (s.chan c).tally = .offAir ∧ (u16 hi lo).testBit c.val = true
      ∧ ∃ mv, mv.live = false ∧ ((s.chan c).phase = .moving mv ∨ (s.chan c).phase = .zoneWait mv)
    ∃ t, exec (.tally m) s = .next t
      ∧ (∀ c : Chan, (t.chan c).tally = if (u16 hi lo).testBit c.val then .onAir else .offAir)
      ∧ (∀ c : Chan, (s.chan c).tally = .offAir → (u16 hi lo).testBit c.val = true →
        match (s.chan c).phase with
        | .moving mv => mv.live = false →
            ((formStop (s.chan c).limits mv .tallyStop).rs ≠ 0 →
              (t.chan c).phase = .stopping { mv with post := .idle } (formStop (s.chan c).limits mv .tallyStop))
            ∧ ((formStop (s.chan c).limits mv .tallyStop).rs = 0 →
              RestsIn s t c .idle ∧ (t.chan c).last = some (mv.cue.shot, .tallyStop)
              ∧ (t.chan c).commanded = (s.chan c).commanded ∧ EntryReleased s t ∧ LimitsApplied s t c
              ∧ ZonesAfterEnd s t c (fun _ => True) .idle
              ∧ (t.out.noticeLost = true ∨ ⟨noticeFrame s (moveNotice c mv 5 0), none⟩ ∈ t.out.entries))
        | .zoneWait mv => mv.live = false → (t.chan c).phase = .idle ∧ (∀ w ∈ t.floor.waiters, w.channel ≠ c)
            ∧ (s.parkOrder = [] → (t.chan c).queue = mv.cue :: (s.chan c).queue)
            ∧ (∀ z, t.floor.owners.get z = some c ↔ s.floor.owners.get z = some c)
            ∧ (t.chan c).last = (s.chan c).last ∧ LimitsApplied s t c
        | .manualWait _ _ => True
        | p => (t.chan c).phase = p)
      ∧ (∀ c : Chan, (s.chan c).tally = (if (u16 hi lo).testBit c.val then .onAir else .offAir) →
        (∀ w ∈ s.floor.waiters, w.channel ≠ c) → (t.chan c).phase = (s.chan c).phase)
      ∧ (∀ c : Chan, ¬stops c →
        match (s.chan c).phase with
        | .zoneWait mv => (t.chan c).phase = .zoneWait mv ∨ (t.chan c).phase = .moving { mv with field := 0 }
            ∨ (mv.dur = 0 ∧ (t.chan c).last = some (mv.cue.shot, .arrived))
        | .manualWait r n => (t.chan c).phase = .manualWait r n ∨ (t.chan c).phase = .manual r
        | p => (t.chan c).phase = p)
      ∧ (Walked s → (∀ c, stops c → ∀ mv, (s.chan c).phase ≠ .zoneWait mv) →
        t.floor = s.floor ∧ ∀ c, ¬stops c → (t.chan c).phase = (s.chan c).phase)
      ∧ t.shots = s.shots ∧ t.monitor = s.monitor ∧ t.out.reserved = s.out.reserved

/-- R64, R65: a POSITION report outside the motion set stores its positions, and the first that carries every axis of
the mask makes position valid and gives the commanded positions. R66: in the motion set a report that brings no count to 3
counts up by one at each checked axis that exceeds its follow limit about H[latency], sets the count of each other checked
axis to 0 and keeps the rest; R117: a settling channel that it does not bring into position goes on settling. -/
def Obligations.PositionStoresReportValidatesAndCounts : Prop :=
  ∀ (s : State) (m : Msg) (c : Chan) (f : PositionFields), FromHead s m (headCode .position) c →
    readPosition m.payload = some f →
    let complete := ∀ a, (s.chan c).config.mask.get a = true → f.axes.get a ≠ none
    let now := fun a => (f.axes.get a).getD ((s.chan c).reported.get a)
    let stored : Channel := { s.chan c with reported := .ofFn now, reportAge := 0, headStatus := f.status }
    (inMotion (s.chan c).phase = false → (s.chan c).valid = true ∨ ¬complete →
      exec (.position m) s
        = .next (forwardUp (m.frame (headCode .position)) (afterHead (s.setChan c stored))))
    ∧ (inMotion (s.chan c).phase = false → (s.chan c).valid = false → complete →
      exec (.position m) s = .next (forwardUp (m.frame (headCode .position)) (afterHead (s.setChan c { stored with
        valid := true
        commanded := .ofFn fun a => (f.axes.get a).getD ((s.chan c).commanded.get a)
        history := .ofFn fun a => match f.axes.get a with
          | some p => History.fill p
          | none => (s.chan c).history.get a }))))
    ∧ (inMotion (s.chan c).phase = true → (s.chan c).valid = true →
      let checked : Axis → Bool := fun a => (s.chan c).config.mask.get a && (f.axes.get a).isSome
        && decide (((s.chan c).limits.get a).follow ≠ 0)
      let exceeds : Axis → Bool := fun a =>
        decide (((s.chan c).limits.get a).follow < (now a - ((s.chan c).history.get a).get (s.chan c).config.latency).natAbs)
      (∀ a, checked a = true → exceeds a = true → (s.chan c).followErrors.get a < 2) →
      (∀ mv, (s.chan c).phase = .settling mv → ∃ a, mv.moved.get a = true ∧ ((s.chan c).limits.get a).window ≠ 0
        ∧ ((s.chan c).limits.get a).window < (now a - mv.target.get a).natAbs) →
      exec (.position m) s = .next (forwardUp (m.frame (headCode .position)) (afterHead (s.setChan c { stored with
        followErrors := .ofFn fun a => if checked a
          then (if exceeds a then (s.chan c).followErrors.get a + 1 else 0) else (s.chan c).followErrors.get a }))))

/-- R66, R70: in the motion set a report whose third excess in a row comes at some axis faults the channel, naming the
lowest such axis; the report's positions are stored and its other counts made as well (R65). R120: the move the channel
carries ends FAULTED.
That the MOVE END notice of a move faulted in ZONE_WAIT stands before what the walk of its withdrawal grants, and the FAULT
notice after it, is the model's choice (log entry 5).
That bits 3 to 7 of a MOVE END notice's flags byte are 0 is the model's reading (log entry 28). -/
def Obligations.ThirdFollowingErrorFaults : Prop :=
  ∀ (s : State) (m : Msg) (c : Chan) (f : PositionFields) (a : Axis), FromHead s m (headCode .position) c →
    readPosition m.payload = some f → inMotion (s.chan c).phase = true → (s.chan c).valid = true →
    let now := fun b => (f.axes.get b).getD ((s.chan c).reported.get b)
    let checked : Axis → Bool := fun b => (s.chan c).config.mask.get b && (f.axes.get b).isSome
      && decide (((s.chan c).limits.get b).follow ≠ 0)
    let exceeds : Axis → Bool := fun b =>
      decide (((s.chan c).limits.get b).follow < (now b - ((s.chan c).history.get b).get (s.chan c).config.latency).natAbs)
    let third := fun b => checked b = true ∧ exceeds b = true ∧ (s.chan c).followErrors.get b = 2
    CountsOk s → (∀ b, (s.chan c).followErrors.get b ≠ 3) → third a → (∀ b, third b → a.number ≤ b.number) →
    ∃ t, exec (.position m) s = .next t ∧ FaultEntered s t c (.followError a)
      ∧ (∀ b, (t.chan c).reported.get b = now b
        ∧ (t.chan c).followErrors.get b = if checked b
          then (if exceeds b then (s.chan c).followErrors.get b + 1 else 0) else (s.chan c).followErrors.get b)
      ∧ (t.chan c).reportAge = 0 ∧ (t.chan c).headStatus = f.status
      ∧ t.link.upstream = (if s.link.upstream.length < 16
          then s.link.upstream ++ [m.frame (headCode .position)] else s.link.upstream)
      ∧ t.shots = s.shots ∧ t.monitor = s.monitor

/-- R68, R70, R120: an ALARM faults a channel in any mapped state but FAULT, is ignored in FAULT, and is forwarded upstream
either way. For a channel that waits for zones, that its FAULT notice and its MANUAL DENY stand after what the walk of its
withdrawal grants, and its MOVE END notice before it, is the model's choice (log entry 5).
That bits 3 to 7 of a MOVE END notice's flags byte are 0 is the model's reading (log entry 28). -/
def Obligations.AlarmFaultsAndIsForwarded : Prop :=
  ∀ (s : State) (m : Msg) (c : Chan) (code : Byte), FromHead s m (headCode .alarm) c → m.payload = [code] →
    ((s.chan c).phase = .fault →
      exec (.alarm m) s = .next (forwardUp (m.frame (headCode .alarm)) (afterHead s)))
    ∧ ((s.chan c).phase ≠ .fault →
      ∃ t, exec (.alarm m) s = .next t ∧ FaultEntered s t c (.headAlarm code)
        ∧ (t.chan c).reported = (s.chan c).reported
        ∧ t.link.upstream = (if s.link.upstream.length < 16
            then s.link.upstream ++ [m.frame (headCode .alarm)] else s.link.upstream)
        ∧ t.shots = s.shots ∧ t.monitor = s.monitor)

/-! ## The Cue Manager -/

/-- R85 to R88: a QUEUE or NEXT call that passes its checks takes a free entry, at the tail or at the head of the queue,
is parked when the pool has none, or replaces the channel's parked call.
That bits 3 to 7 of a MOVE END notice's flags byte are 0 is the model's reading (log entry 28). -/
def Obligations.CallIsQueuedParkedOrReplacesParked : Prop :=
  ∀ (s : State) (m : Msg) (c : Chan) (f : CallFields) (i : Instr) (mode : CallMode),
    AtCamera s m (cameraCode .call) c → s.outFree ≠ 0 → readCall m.payload = some f →
    (i = .callQueue m ∧ f.mode = 0 ∧ mode = .queue) ∨ (i = .callNext m ∧ f.mode = 1 ∧ mode = .next) →
    (s.chan c).phase ≠ .fault → f.duration = 0 ∨ (2 ≤ f.duration ∧ f.duration ≤ 4095) →
    s.findShot c f.shot ≠ none → (s.chan c).config.queueLimit ≠ 0 →
    (s.chan c).queue.length < (s.chan c).config.queueLimit →
    (s.chan c).queue.length + (if moveOf (s.chan c).phase = none then 0 else 1) < 8 →
    let override := if f.duration = 0 then none else some f.duration
    let cue : Cue := ⟨f.shot, f.tag, override, (s.chan c).nextRank⟩
    let call : ParkedCall := ⟨f.shot, f.tag, override, mode⟩
    let head := chanByte c :: be16 f.tag.toNat
    ((s.chan c).parked = none → s.poolFree ≠ 0 →
      exec i s = .next (withAnswer
        (({ s with poolFree := s.poolFree - 1 } : State).modChan c fun ch => { ch with
          queue := if mode = CallMode.next then cue :: ch.queue else ch.queue ++ [cue]
          nextRank := ch.nextRank + 1 })
        0x10 (reply .ok (head ++ be8 ((s.chan c).queue.length + 1) ++ be8 (s.poolFree - 1) ++ [0]))))
    ∧ ((s.chan c).parked = none → s.poolFree = 0 →
      exec i s = .next (withAnswer
        (({ s with parkOrder := s.parkOrder ++ [c] } : State).modChan c fun ch => { ch with parked := some call })
        0x10 (reply .okParked (head ++ be8 (s.chan c).queue.length ++ be8 0 ++ [1]))))
    ∧ ∀ old, (s.chan c).parked = some old →
      ∃ t, exec i s = .next t ∧ t.channels = (s.modChan c fun ch => { ch with parked := some call }).channels
        ∧ t.parkOrder = s.parkOrder ∧ t.poolFree = s.poolFree ∧ t.floor = s.floor ∧ t.shots = s.shots
        ∧ t.monitor = s.monitor
        ∧ t.out.entries = s.out.entries
            ++ (if s.outFree = 1 then [] else [⟨noticeFrame s (unstartedBytes c old.shot old.tag .displaced), none⟩])
            ++ [answerEntry s 0x10 (reply .okParked (head ++ be8 (s.chan c).queue.length ++ be8 s.poolFree ++ [1]))]
        ∧ t.out.noticeLost = (s.out.noticeLost || s.outFree == 1)

/-- R84, R85: the refusals of a CALL in their order, none of which changes anything. -/
def Obligations.CallChecksInOrder : Prop :=
  ∀ (s : State) (m : Msg) (c : Chan) (i : Instr), i = .callQueue m ∨ i = .callNext m ∨ i = .cut m →
    AtCamera s m (cameraCode .call) c → s.outFree ≠ 0 →
    (m.payload.length ≠ 7 → exec i s = .next (withAnswer s 0x10 (refuse .badLength)))
    ∧ ∀ f, readCall m.payload = some f →
      let refused := fun r : ResultCode => exec i s
        = .next (withAnswer s 0x10 (reply r (chanByte c :: be16 f.tag.toNat)))
      let bad := 2 < f.mode.toNat ∨ f.duration = 1 ∨ 4095 < f.duration
      let full := (s.chan c).config.queueLimit ≤ (s.chan c).queue.length
        ∨ 8 ≤ (s.chan c).queue.length + (if moveOf (s.chan c).phase = none then 0 else 1)
      ((s.chan c).phase = .fault → refused .cameraFault)
      ∧ ((s.chan c).phase ≠ .fault → bad → refused .badParam)
      ∧ ((s.chan c).phase ≠ .fault → ¬bad → s.findShot c f.shot = none → refused .noShot)
      ∧ ((s.chan c).phase ≠ .fault → ¬bad → s.findShot c f.shot ≠ none → f.mode.toNat < 2 →
        ((s.chan c).config.queueLimit = 0 → refused .callsDisabled)
        ∧ ((s.chan c).config.queueLimit ≠ 0 → full → refused .queueFull))

/-- R89: a CUT that passes its checks displaces its channel's parked call, noticed DISPLACED (7), and flushes its queue,
noticed FLUSHED (6) in the order of rank; it then takes a free entry as the only cue of its queue, answered OK, or is
parked, answered OK_PARKED. R90: it acts on the present move by the channel's state: a ramp with a step supersedes a
MOVING move, and one without (R46, R114), as in ZONE_WAIT, ends the move SUPERSEDED (3) at once, whose entry may then admit
the parked CUT. The answer's counts are those the CUT leaves.
That the MOVE END notice of a move superseded in ZONE_WAIT stands before what the walk of its withdrawal grants is the
model's choice (log entry 5).
That bits 3 to 7 of a MOVE END notice's flags byte are 0 is the model's reading (log entry 28). -/
def Obligations.CutReplacesQueueAndSupersedesMove : Prop :=
  ∀ (s : State) (m : Msg) (c : Chan) (f : CallFields), AtCamera s m (cameraCode .call) c → s.outFree ≠ 0 →
    readCall m.payload = some f → f.mode = 2 → (s.chan c).phase ≠ .fault →
    f.duration = 0 ∨ (2 ≤ f.duration ∧ f.duration ≤ 4095) → s.findShot c f.shot ≠ none →
    let override := if f.duration = 0 then none else some f.duration
    let cue : Cue := ⟨f.shot, f.tag, override, (s.chan c).nextRank⟩
    let others := s.parkOrder.filter fun d => d != c
    let flushed := (s.chan c).queue.length
    let ended := fun mv => (s.chan c).phase = .zoneWait mv
      ∨ ((s.chan c).phase = .moving mv ∧ (formStop (s.chan c).limits mv .superseded).rs = 0)
    ∃ t, exec (.cut m) s = .next t
      ∧ (∃ r, (r = .ok ∨ r = .okParked) ∧ t.out.entries.getLast? = some (answerEntry s 0x10 (reply r
            (chanByte c :: be16 f.tag.toNat ++ [BitVec.ofNat 8 (t.chan c).queue.length, BitVec.ofNat 8 t.poolFree,
              if (t.chan c).parked.isSome then 1 else 0])))
          ∧ (s.poolFree ≠ 0 → r = .ok)
          ∧ (s.parkOrder.Nodup → (∀ d ∈ s.parkOrder, (s.chan d).parked ≠ none) →
              (r = .ok ↔ s.poolFree ≠ 0 ∨ others.length < flushed)))
      ∧ (∃ qs, InRankOrder qs (s.chan c).queue
          ∧ Noticed s t 1 (displacedNotice c (s.chan c).parked ++ flushedNotices c qs)
          ∧ ∀ mv, ended mv → Noticed s t 1
              (displacedNotice c (s.chan c).parked ++ flushedNotices c qs ++ [moveNotice c mv 3 0]))
      ∧ (s.poolFree ≠ 0 ∨ ((s.chan c).queue ≠ [] ∧ ∀ d ∈ s.parkOrder, d = c) →
        (t.chan c).queue = [cue] ∧ (t.chan c).parked = none)
      ∧ (s.poolFree = 0 → s.parkOrder.Nodup → (∀ d ∈ s.parkOrder, (s.chan d).parked ≠ none) →
        (others.length < flushed → (t.chan c).queue = [cue] ∧ (t.chan c).parked = none)
        ∧ (flushed ≤ others.length →
          ((∀ mv, ¬ended mv) → (t.chan c).queue = [] ∧ (t.chan c).parked = some ⟨f.shot, f.tag, override, .cut⟩
            ∧ t.parkOrder = others.drop flushed ++ [c])
          ∧ ∀ mv, ended mv →
            (flushed = others.length → (t.chan c).queue = [cue] ∧ (t.chan c).parked = none ∧ t.parkOrder = [])
            ∧ (flushed < others.length → (∀ w ∈ s.floor.waiters, w.channel = c) →
              (t.chan c).queue = [] ∧ (t.chan c).parked = some ⟨f.shot, f.tag, override, .cut⟩
                ∧ t.parkOrder = others.drop (flushed + 1) ++ [c])))
      ∧ (match (s.chan c).phase with
        | .moving mv => ((formStop (s.chan c).limits mv .superseded).rs ≠ 0 →
            (t.chan c).phase = .stopping { mv with post := .idle } (formStop (s.chan c).limits mv .superseded))
        | .zoneWait _ => ∀ w ∈ t.floor.waiters, w.channel ≠ c
        | p => (t.chan c).phase = p)
      ∧ (∀ mv, ended mv → (t.chan c).last = some (mv.cue.shot, .superseded) ∧ RestsIn s t c .idle
          ∧ LimitsApplied s t c ∧ ZonesAfterEnd s t c (fun _ => True) .idle)
      ∧ (t.chan c).commanded = (s.chan c).commanded ∧ t.link.batch = s.link.batch
      ∧ t.shots = s.shots ∧ t.monitor = s.monitor

/-- R94, R95: FLUSH empties the channel's queue and parked call and leaves its present work alone; the notices FLUSHED (6)
in the order of admission rank and then DISPLACED (7) stand before the answer, as far as they find places.
That the displaced byte of the answer is 1 for yes is the model's reading (log entry 6).
That bits 3 to 7 of a MOVE END notice's flags byte are 0 is the model's reading (log entry 28). -/
def Obligations.FlushEmptiesQueueAndParkedCall : Prop :=
  ∀ (s : State) (m : Msg) (c : Chan), AtCamera s m (cameraCode .flush) c → s.outFree ≠ 0 → m.payload = [] →
    ∃ t, exec (.flush m) s = .next t ∧ (t.chan c).queue = [] ∧ (t.chan c).parked = none
      ∧ (t.chan c).phase = (s.chan c).phase ∧ (t.chan c).manualPending = (s.chan c).manualPending
      ∧ (t.chan c).last = (s.chan c).last
      ∧ ((∀ d ∈ s.parkOrder, d = c) → t.poolFree = s.poolFree + (s.chan c).queue.length
          ∧ ∀ d, d ≠ c → t.chan d = s.chan d)
      ∧ t.parkOrder.length ≤ s.parkOrder.length ∧ t.floor = s.floor ∧ t.shots = s.shots ∧ t.monitor = s.monitor
      ∧ ∃ qs, InRankOrder qs (s.chan c).queue ∧
        let notices := flushedNotices c qs ++ displacedNotice c (s.chan c).parked
        t.out.entries = s.out.entries ++ noticesKept s 1 notices ++ [answerEntry s 0x14 (reply .ok
          (chanByte c :: BitVec.ofNat 8 (s.chan c).queue.length :: flagByte (s.chan c).parked.isSome))]
        ∧ t.out.noticeLost = (s.out.noticeLost || decide (s.outFree - 1 < notices.length))

/-- R91: a released entry goes to the oldest channel of the Park Order, whose parked call is admitted into it by its
mode; with no parked call it joins the free list. An entry that a flush releases passes over the flushed channel.
That PARKED_CALL_ADMISSION does the same with a free entry is the model's reading of that row (log entry 4), and that a
parked CUT goes to the head of whatever queue stands, which R91 says of an empty one alone, is another (log entry 16). -/
def Obligations.ReleasedEntryServesOldestParkedCall : Prop :=
  ∀ s : State,
    let serves := fun (call : ParkedCall) (ch : Channel) =>
      let cue : Cue := ⟨call.shot, call.tag, call.override, ch.nextRank⟩
      { ch with
        queue := if call.mode = .queue then ch.queue ++ [cue] else cue :: ch.queue
        nextRank := ch.nextRank + 1
        parked := none }
    (s.parkOrder = [] → releaseEntry none s = { s with poolFree := s.poolFree + 1 })
    ∧ (∀ c, (∀ d ∈ s.parkOrder, d = c) → releaseEntry (some c) s = { s with poolFree := s.poolFree + 1 })
    ∧ (∀ flushing pre c rest call, s.parkOrder = pre ++ c :: rest → (∀ d ∈ pre, d = flushing) → c ≠ flushing →
        (s.chan c).parked = some call →
        releaseEntry (some flushing) s = ({ s with parkOrder := pre ++ rest } : State).modChan c (serves call))
    ∧ ∀ c rest call, s.parkOrder = c :: rest → (s.chan c).parked = some call →
      releaseEntry none s = ({ s with parkOrder := rest } : State).modChan c (serves call)
      ∧ (s.resetHeld = false → s.poolFree ≠ 0 →
          exec .parkedCallAdmission s
            = .next (({ s with parkOrder := rest, poolFree := s.poolFree - 1 } : State).modChan c (serves call)))

/-! ## The Zone Arbiter -/

/-- R129, R131: one pass of the walk grants sets whole and takes no zone from any owner; what it does not grant is
blocked by an owner or by an older waiter that stays. A waiter is granted exactly when each zone of its set is its own or
is free and in the set of no older waiter that stays, with the owners as the older waiters' visits leave them; so no zone
newly taken is in the set of an older waiter that stays. -/
def Obligations.WalkGrantsWholeSetsAndTakesFromNoOwner : Prop :=
  ∀ (owners : Vector (Option Chan) 24) (ws : List Waiter),
    let r := walkPass owners [] ws
    (∀ z c, owners.get z = some c → r.1.get z = some c)
    ∧ (∀ w ∈ r.2.2, ∀ z ∈ w.zones, r.1.get z = some w.channel)
    ∧ (∀ z c, owners.get z = none → r.1.get z = some c → ∃ w ∈ r.2.2, w.channel = c ∧ z ∈ w.zones)
    ∧ r.2.1.Sublist ws ∧ r.2.2.Sublist ws ∧ r.2.1.length + r.2.2.length = ws.length
    ∧ (∀ older w younger, r.2.1 = older ++ w :: younger →
        ∃ z ∈ w.zones, (∃ d, d ≠ w.channel ∧ r.1.get z = some d) ∨ (∃ x ∈ older, z ∈ x.zones))
    ∧ walkPass owners [] [] = (owners, [], [])
    ∧ (∀ w,
      let next := walkPass owners [] (ws ++ [w])
      let granted := ∀ z ∈ w.zones, r.1.get z = some w.channel ∨ (r.1.get z = none ∧ ∀ x ∈ r.2.1, z ∉ x.zones)
      (granted → (∀ z, next.1.get z = if z ∈ w.zones then some w.channel else r.1.get z)
        ∧ next.2.1 = r.2.1 ∧ next.2.2 = r.2.2 ++ [w])
      ∧ (¬granted → next.1 = r.1 ∧ next.2.1 = r.2.1 ++ [w] ∧ next.2.2 = r.2.2))
    ∧ (∀ older younger, ws = older ++ younger →
        (walkPass owners [] older).2.1 <+: r.2.1 ∧ (walkPass owners [] older).2.2 <+: r.2.2)
    ∧ ∀ z c, owners.get z = none → r.1.get z = some c →
        ∃ older w younger, ws = older ++ w :: younger ∧ w.channel = c ∧ z ∈ w.zones
          ∧ (walkPass owners [] (older ++ [w])).2.2 = (walkPass owners [] older).2.2 ++ [w]
          ∧ ∀ x ∈ (walkPass owners [] older).2.1, z ∉ x.zones

/-- R136: ZONE RELEASE frees every zone of a channel that is not moving and runs the walk; any other channel is
refused BUSY; R130: after it no waiter left on the list would be granted (waiting moves have the post-state IDLE, as
WalkedOk says). R137: ZONE READ answers the owners of all zones and the waiters, oldest first, in one frame up to 11
waiters and in two parts above, and changes nothing. R181, R184: a waiter takes six bytes: its channel and, in bit 7, its
kind; its set, bit n of the 24-bit value for zone n; and its channel's wait count. That bits 4 to 6 of the first are 0 is
the model's reading (log entry 14). -/
def Obligations.ZoneReleaseAndZoneReadShowFloor : Prop :=
  (∀ (s : State) (m : Msg) (b : Byte), AtPart s m (partCode .zoneRelease) → m.payload = [b] →
    (16 ≤ b.toNat → exec (.zoneRelease m) s = .next (withAnswer s 0x2A (refuse .badParam)))
    ∧ ∀ c, chanOf b = some c →
      let resting := (s.chan c).phase = .vacant ∨ (s.chan c).phase = .idle ∨ (s.chan c).phase = .held
        ∨ (s.chan c).phase = .fault
      let count := (allZones.filter fun z => s.floor.owners.get z == some c).length
      (¬resting → exec (.zoneRelease m) s = .next (withAnswer s 0x2A (refuse .busy)))
      ∧ (resting → s.floor.waiters = [] →
        ∃ owners, exec (.zoneRelease m) s = .next (withAnswer { s with floor := ⟨owners, []⟩ } 0x2A
            (reply .ok [b, BitVec.ofNat 8 count]))
          ∧ ∀ z, owners.get z = if s.floor.owners.get z = some c then none else s.floor.owners.get z)
      ∧ (resting → (∀ w ∈ s.floor.waiters, w.channel ≠ c) →
        ∃ t, exec (.zoneRelease m) s = .next t ∧ (∀ z, t.floor.owners.get z ≠ some c)
          ∧ (t.chan c).phase = (s.chan c).phase ∧ t.shots = s.shots ∧ t.monitor = s.monitor
          ∧ t.out.entries.getLast? = some (answerEntry s 0x2A (reply .ok [b, BitVec.ofNat 8 count])))
      ∧ (resting → (∀ d mv, (s.chan d).phase = .zoneWait mv → mv.post = .idle) →
        ∃ t, exec (.zoneRelease m) s = .next t ∧ Walked t))
  ∧ (∀ (s : State) (m : Msg), AtPart s m (partCode .zoneRead) → m.payload = [] →
    let owners := allZones.map fun z => match s.floor.owners.get z with
      | some c => chanByte c
      | none => (0xFF : Byte)
    let count := BitVec.ofNat 8 s.floor.waiters.length
    (s.floor.waiters.length ≤ 11 →
      exec (.zoneRead m) s = .next (withAnswer s 0x29
        (reply .ok (0 :: 1 :: owners ++ count :: s.floor.waiters.flatMap (waiterBytes s)))))
    ∧ (11 < s.floor.waiters.length →
      exec (.zoneRead m) s = .next (withAnswer s 0x29
        { result := .ok
          data := 0 :: 2 :: owners ++ count :: (s.floor.waiters.take 11).flatMap (waiterBytes s)
          second := some (1 :: 2 :: (s.floor.waiters.drop 11).flatMap (waiterBytes s)) })))
  ∧ (∀ (s : State) (w : Waiter) (n : Nat),
    (∃ mv, (s.chan w.channel).phase = .zoneWait mv ∧ n = mv.waitCount)
      ∨ (∃ r, (s.chan w.channel).phase = .manualWait r n) →
    ∃ (first : Byte) (set : BitVec 24), waiterBytes s w = [first, set.extractLsb' 16 8, set.extractLsb' 8 8,
        set.extractLsb' 0 8, BitVec.ofNat 8 (n / 256), BitVec.ofNat 8 n]
      ∧ first.toNat = w.channel.val + (match w.kind with | .move => 0 | .manual => 128)
      ∧ ∀ z : Zone, set.getLsbD z.val = true ↔ z ∈ w.zones)

/-- R108, R131, R154: a waiter that a walk would grant takes its zones whole and leaves the list; its channel enters
MOVING, or sends MANUAL GRANT and enters MANUAL. R108, R122: a grant to a move with no distance ends it ARRIVED at the
grant, with its zones beyond the rest zones given up (R134), its notice (R124), its entry released and its limits applied.
That a grant no walk would make changes nothing is the model's choice (log entry 4).
That bits 3 to 7 of a MOVE END notice's flags byte are 0 is the model's reading (log entry 28). -/
def Obligations.GrantTakesZonesAndHandsOver : Prop :=
  (∀ (s : State) (c : Chan) (w : Waiter), s.resetHeld = false →
    let owners := ownZones s.floor.owners c w.zones
    let waiters := s.floor.waiters.filter fun x => x.channel != c
    (∀ mv, grantable .move c s = some w → (s.chan c).phase = .zoneWait mv → mv.dur ≠ 0 →
      exec (.zoneGrant c) s = .next (({ s with floor := ⟨owners, waiters⟩ } : State).modChan c fun ch =>
        { ch with phase := .moving { mv with field := 0 } }))
    ∧ (∀ r n, grantable .manual c s = some w → (s.chan c).phase = .manualWait r n →
      exec (.manualGrant c) s = .next
        (({ s with
            floor := ⟨owners, waiters⟩
            out := withNotice s (cameraEventPayload c .manualGranted)
            link := { s.link with headControl :=
              if s.link.headControl.length < 16
              then s.link.headControl ++ [⟨(s.chan c).config.link, s.partAddress, 0x51, []⟩]
              else s.link.headControl } } : State).modChan c fun ch => { ch with phase := .manual r }))
    ∧ (grantable .move c s = none → exec (.zoneGrant c) s = .next s)
    ∧ (grantable .manual c s = none → exec (.manualGrant c) s = .next s)
    ∧ ∀ z, owners.get z = (if z ∈ w.zones then some c else s.floor.owners.get z))
  ∧ (∀ (s : State) (c : Chan) (w : Waiter) (mv : Move), s.resetHeld = false → grantable .move c s = some w →
    (s.chan c).phase = .zoneWait mv → mv.dur = 0 → mv.post = .idle →
    ∃ t, exec (.zoneGrant c) s = .next t ∧ (t.chan c).phase = .idle
      ∧ (t.chan c).last = some (mv.cue.shot, .arrived) ∧ (t.chan c).commanded = (s.chan c).commanded
      ∧ Noticed s t 0 [moveNotice c mv 1 0] ∧ EntryReleased s t ∧ LimitsApplied s t c
      ∧ (∀ x ∈ t.floor.waiters, x.channel ≠ c)
      ∧ (∀ z, t.floor.owners.get z = some c ↔
          (z ∈ mv.shot.rest ∧ (z ∈ w.zones ∨ s.floor.owners.get z = some c)))
      ∧ t.shots = s.shots ∧ t.monitor = s.monitor)

/-! ## Field events at a channel -/

/-- R62: at a field event the bookkeeping stores the commanded positions in H[0] and moves each H[i] to H[i + 1], takes
the snapshot and counts the report age. Then a state whose work does not end at that field event goes on: MOVING emits
profile field k to k + 1 (R111, R112), STOPPING its next step (R115), JOGGING its next jog step (R146); SETTLING, ZONE_WAIT
and MANUAL_WAIT count (R107, R118, R153); HELD, MANUAL and FAULT do nothing more. A channel without a field event due is
left as it was. R112, R177, R183: a setpoint frame's fields, and the batch it joins. -/
def Obligations.FieldEventKeepsBooksAndAdvancesState : Prop :=
  (∀ ch : Channel, let b := bookkeep ch
    (∀ a, (b.history.get a).get 0 = ch.commanded.get a
      ∧ ∀ i : Fin 7, (b.history.get a).get i.succ = (ch.history.get a).get i.castSucc)
    ∧ b.snapshot = ⟨ch.commanded, ch.reported⟩ ∧ b.reportAge = min 255 (ch.reportAge + 1)
    ∧ b = { ch with history := b.history, snapshot := b.snapshot, reportAge := b.reportAge, fieldDue := false })
  ∧ (∀ (s : State) (c : Chan) (mode : Byte) (points : PerAxis (Option (List Int))),
    let f := setpointFrame s c mode points
    f.dest = (s.chan c).config.link ∧ f.source = s.partAddress ∧ f.kind = 0x50
    ∧ (∃ mask : Byte, f.payload = mode :: mask :: allAxes.flatMap (fun a => ((points.get a).getD []).flatMap be24)
        ∧ ∀ i : Fin 8, mask.getLsbD i = true ↔ ∃ a, a.number = i.val ∧ points.get a ≠ none)
    ∧ (s.monitor.headDue = false → emit c f s
        = { s with link := { s.link with batch := s.link.batch.set c.val (some ⟨f, false⟩) c.isLt } })
    ∧ (s.monitor.headDue = true → emit c f s
        = { s with link := { s.link with nextBatch := s.link.nextBatch.set c.val (some ⟨f, false⟩) c.isLt } }))
  ∧ (∀ (s : State) (c : Chan), let b := bookkeep (s.chan c)
    ((s.chan c).fieldDue = false → takeField c s = s)
    ∧ (FieldReady s c →
      (∀ m, (s.chan c).phase = .moving m → m.field + 1 < m.dur →
        let points := .ofFn fun a => if m.moved.get a
          then some (dither (profilePos m a m.field) (profilePos m a (m.field + 1))) else none
        takeField c s = (emit c (setpointFrame s c 0 points) s).setChan c { b with
          commanded := .ofFn fun a => if m.moved.get a then profilePos m a (m.field + 1) else (s.chan c).commanded.get a
          phase := .moving { m with field := m.field + 1 } })
      ∧ (∀ m st, (s.chan c).phase = .stopping m st → st.step + 1 < st.rs →
        let at_ := fun a j => stopPos ((s.chan c).limits.get a) st a j
        let points := .ofFn fun a => if m.moved.get a then some (dither (at_ a st.step) (at_ a (st.step + 1))) else none
        takeField c s = (emit c (setpointFrame s c 1 points) s).setChan c { b with
          commanded := .ofFn fun a => if m.moved.get a then at_ a (st.step + 1) else (s.chan c).commanded.get a
          phase := .stopping m { st with step := st.step + 1 } })
      ∧ (∀ j, (s.chan c).phase = .jogging j → j.age + 1 < 8 →
        let stepped := fun a => (j.axes.get a).map fun ja =>
          jogStep ((s.chan c).limits.get a) (s.chan c).tally ((s.chan c).commanded.get a) ja
        let points := .ofFn fun a => (stepped a).map fun r => dither ((s.chan c).commanded.get a) r.1
        (∃ a r, stepped a = some r ∧ ¬(r.2.demand = 0 ∧ r.2.velocity = 0)) →
        takeField c s = (emit c (setpointFrame s c 2 points) s).setChan c { b with
          commanded := .ofFn fun a => ((stepped a).map Prod.fst).getD ((s.chan c).commanded.get a)
          phase := .jogging { j with age := j.age + 1, axes := .ofFn fun a => (stepped a).map Prod.snd } })
      ∧ (∀ m, (s.chan c).phase = .settling m → m.settleCount + 1 < (s.chan c).config.settleLimit →
        takeField c s = s.setChan c { b with phase := .settling { m with settleCount := m.settleCount + 1 } })
      ∧ (∀ m, (s.chan c).phase = .zoneWait m →
        (s.chan c).config.zoneWaitLimit = 0 ∨ min 4095 (m.waitCount + 1) < (s.chan c).config.zoneWaitLimit →
        takeField c s = s.setChan c { b with phase := .zoneWait { m with waitCount := min 4095 (m.waitCount + 1) } }))
    ∧ ((s.chan c).fieldDue = true →
      (∀ r n, (s.chan c).phase = .manualWait r n →
        (s.chan c).config.zoneWaitLimit = 0 ∨ min 4095 (n + 1) < (s.chan c).config.zoneWaitLimit →
        takeField c s = s.setChan c { b with phase := .manualWait r (min 4095 (n + 1)) })
      ∧ ((s.chan c).phase = .held ∨ (s.chan c).phase = .fault ∨ (∃ r, (s.chan c).phase = .manual r) →
        takeField c s = s.setChan c b)))

/-- R101 to R106: a field event at an IDLE channel makes a start attempt. The first gate serves a pending manual request
with an entry into MANUAL_WAIT, granted or not (R128, R152, R154). Then: nothing without a cue or a valid position; the cue
goes back when the camera is on air and the move may not be live; NO_SHOT (8) without a record; START_OUTSIDE (9) from
outside the travel; PROFILE_RANGE (10) above 4095 fields; else the zones are asked for, and the move starts when they are
granted, with the setpoint frame of its first field in the batch (R112), or with no distance ends ARRIVED (1) at once.
That bits 3 to 7 of a MOVE END notice's flags byte are 0 is the model's reading (log entry 28). -/
def Obligations.StartAttemptStartsReturnsOrEndsCue : Prop :=
  ∀ (s : State) (c : Chan), s.resetHeld = false → (s.chan c).fieldDue = true → (s.chan c).phase = .idle →
    let ch := bookkeep (s.chan c)
    ((s.chan c).manualPending = true → Walked s →
      let zones := (s.chan c).config.manualZones
      ((¬∀ z ∈ zones, ZoneOpen s c z) → takeField c s
        = ({ s with floor := ⟨s.floor.owners, s.floor.waiters ++ [⟨c, .manual, zones⟩]⟩ } : State).setChan c
          { ch with phase := .manualWait .idle 0, manualPending := false })
      ∧ ((∀ z ∈ zones, ZoneOpen s c z) → ∃ owners, takeField c s
        = ({ s with
            floor := ⟨owners, s.floor.waiters⟩
            out := withNotice s (cameraEventPayload c .manualGranted)
            link := { s.link with headControl :=
              if s.link.headControl.length < 16
              then s.link.headControl ++ [⟨(s.chan c).config.link, s.partAddress, 0x51, []⟩]
              else s.link.headControl } } : State).setChan c { ch with phase := .manual .idle, manualPending := false }
        ∧ ∀ z, owners.get z = if z ∈ zones then some c else s.floor.owners.get z))
    ∧ ((s.chan c).manualPending = false →
      ((s.chan c).queue = [] ∨ (s.chan c).valid = false → takeField c s = s.setChan c ch)
      ∧ ∀ q qs, (s.chan c).queue = q :: qs → (s.chan c).valid = true →
        let t := takeField c s
        let ends := fun (o : MoveOutcome) (payload : List Byte) =>
          (t.chan c).phase = .idle ∧ (t.chan c).last = some (q.shot, o) ∧ Noticed s t 0 [payload] ∧ EntryReleased s t
            ∧ (t.chan c).commanded = (s.chan c).commanded ∧ t.link = s.link ∧ t.floor = s.floor
            ∧ (s.parkOrder = [] → t = ({ s with
                out := withNotice s payload
                poolFree := s.poolFree + 1 } : State).setChan c { ch with queue := qs, last := some (q.shot, o) })
        (s.findShot c q.shot = none → ends .noShot (moveEndNotice c q.shot q.tag 8 false false false 0 0))
        ∧ ∀ r, s.findShot c q.shot = some r →
          let live := (s.chan c).tally = .onAir
          let outsideTravel := ∃ a, r.targets.get a ≠ none ∧ (s.chan c).config.mask.get a = true
            ∧ ((s.chan c).commanded.get a < ((s.chan c).limits.get a).minPos
              ∨ ((s.chan c).limits.get a).maxPos < (s.chan c).commanded.get a)
          let mv := planMove (s.chan c) q r (decide live)
          let points := .ofFn fun a =>
            if mv.moved.get a then some (dither (profilePos mv a 0) (profilePos mv a 1)) else none
          (live → r.live = false ∨ s.monitor.fieldState ≠ .locked → t = s.setChan c ch)
          ∧ ((live → r.live = true ∧ s.monitor.fieldState = .locked) →
            (outsideTravel → ends .startOutside (moveEndNotice c q.shot q.tag 9 false false (decide live) 0 0))
            ∧ (¬outsideTravel → 4095 < mv.dur →
              ends .profileRange (moveEndNotice c q.shot q.tag 10 mv.clamped false (decide live) 0 0))
            ∧ (¬outsideTravel → mv.dur ≤ 4095 → Walked s →
              ((¬∀ z ∈ mv.zones, ZoneOpen s c z) →
                t = ({ s with floor := ⟨s.floor.owners, s.floor.waiters ++ [⟨c, .move, mv.zones⟩]⟩ } : State).setChan c
                  { ch with queue := qs, phase := .zoneWait mv, followErrors := .all 0 })
              ∧ ((∀ z ∈ mv.zones, ZoneOpen s c z) → 2 ≤ mv.dur → ∃ owners,
                t = (emit c (setpointFrame s c 0 points) { s with floor := ⟨owners, s.floor.waiters⟩ }).setChan c
                  { ch with
                    queue := qs
                    phase := .moving { mv with field := 1 }
                    followErrors := .all 0
                    commanded := .ofFn fun a =>
                      if mv.moved.get a then profilePos mv a 1 else (s.chan c).commanded.get a }
                ∧ ∀ z, owners.get z = if z ∈ mv.zones then some c else s.floor.owners.get z)
              ∧ ((∀ z ∈ mv.zones, ZoneOpen s c z) → mv.dur = 0 → (∀ w ∈ s.floor.waiters, w.channel ≠ c) →
                (t.chan c).phase = .idle ∧ (t.chan c).last = some (q.shot, .arrived)
                ∧ Noticed s t 0 [moveNotice c mv 1 0] ∧ EntryReleased s t
                ∧ (t.chan c).commanded = (s.chan c).commanded
                ∧ ∀ z, t.floor.owners.get z = some c ↔ z ∈ r.rest))))

/-- R111, R112, R122: the field event that completes a profile brings the commanded positions to the end of the profile,
and leaves the channel settling where a moved axis has a window, and where none has ends the move ARRIVED (1) in its
post-state, with the rest zones kept.
That bits 3 to 7 of a MOVE END notice's flags byte are 0 is the model's reading (log entry 28). -/
def Obligations.ProfileCompletesIntoSettlingOrArrived : Prop :=
  ∀ (s : State) (c : Chan) (mv : Move), FieldReady s c → (s.chan c).phase = .moving mv → mv.dur = mv.field + 1 →
    let points := setpointFrame s c 0 (moveSetpoints mv)
    let ch : Channel := { bookkeep (s.chan c) with
      commanded := .ofFn fun a => if mv.moved.get a then profilePos mv a mv.dur else (s.chan c).commanded.get a }
    let watched := ∃ a, mv.moved.get a = true ∧ ((s.chan c).limits.get a).window ≠ 0
    (watched → exec (.profileComplete c) s = .next ((emit c points s).setChan c
      { ch with phase := .settling { mv with field := mv.dur, settleCount := 0 } }))
    ∧ (¬watched →
      ∃ t, exec (.profileComplete c) s = .next t ∧ (t.chan c).commanded = ch.commanded
        ∧ MoveEnded s t c mv .arrived 1 (· ∈ mv.shot.rest) mv.post 0
        ∧ (if s.monitor.headDue then t.link.nextBatch else t.link.batch).get c = some ⟨points, false⟩
        ∧ t.shots = s.shots ∧ t.monitor = s.monitor)

/-- R115, R122, R123: the last step of a stop ramp emits its setpoint, brings the commanded positions to its end and ends
the move with the stop's cause in its post-state, with every zone kept.
That bits 3 to 7 of a MOVE END notice's flags byte are 0 is the model's reading (log entry 28). -/
def Obligations.StopRampCompleteEndsMoveWithItsCause : Prop :=
  ∀ (s : State) (c : Chan) (mv : Move) (st : Stop), FieldReady s c → (s.chan c).phase = .stopping mv st →
    st.rs ≤ st.step + 1 →
    let at_ := fun a j => stopPos ((s.chan c).limits.get a) st a j
    let points := setpointFrame s c 1 (.ofFn fun a =>
      if mv.moved.get a then some (dither (at_ a st.step) (at_ a (st.step + 1))) else none)
    let quiet := mv.post = .idle ∨ (s.chan c).manualPending = false
    ∃ t, exec (.stopRampComplete c) s = .next t
      ∧ (match st.cause with
        | .superseded => MoveEnded s t c mv .superseded 3 (fun _ => True) mv.post 0
        | .halted => MoveEnded s t c mv .halted 4 (fun _ => True) mv.post 0
        | .tallyStop => MoveEnded s t c mv .tallyStop 5 (fun _ => True) mv.post 0)
      ∧ (∀ a, (t.chan c).commanded.get a
          = if mv.moved.get a then at_ a (st.step + 1) else (s.chan c).commanded.get a)
      ∧ (if s.monitor.headDue then t.link.nextBatch else t.link.batch).get c = some ⟨points, false⟩
      ∧ (quiet → t.floor = s.floor)
      ∧ (quiet → s.parkOrder = [] → t.poolFree = s.poolFree + 1 ∧ ∀ d, d ≠ c → t.chan d = s.chan d)
      ∧ t.shots = s.shots ∧ t.monitor = s.monitor

/-- R146, R147: at jog age 8 every demand becomes 0 and the jog step is taken with it; the field event whose step leaves
every demand and velocity at 0 ends the jog in its return state, where HELD serves a pending manual request (R152). -/
def Obligations.JogWindsDownAtDeadmanAndEndsAtRest : Prop :=
  ∀ (s : State) (c : Chan) (j : Jog), FieldReady s c → (s.chan c).phase = .jogging j →
    let aged : Jog := if 7 ≤ j.age then { zeroDemands j with age := 8 } else { j with age := j.age + 1 }
    let stepped := fun a => (aged.axes.get a).map fun ja =>
      jogStep ((s.chan c).limits.get a) (s.chan c).tally ((s.chan c).commanded.get a) ja
    let j' : Jog := { aged with axes := .ofFn fun a => (stepped a).map Prod.snd }
    let points := setpointFrame s c 2 (.ofFn fun a => (stepped a).map fun r => dither ((s.chan c).commanded.get a) r.1)
    let ch : Channel := { bookkeep (s.chan c) with
      commanded := .ofFn fun a => ((stepped a).map Prod.fst).getD ((s.chan c).commanded.get a) }
    let atRest := ∀ a ja, j'.axes.get a = some ja → ja.demand = 0 ∧ ja.velocity = 0
    (7 ≤ j.age → ¬atRest →
      exec (.jogDeadman c) s = .next ((emit c points s).setChan c { ch with phase := .jogging j' })
      ∧ ∀ a ja, j'.axes.get a = some ja → ja.demand = 0)
    ∧ (atRest → j.ret = .idle ∨ (s.chan c).manualPending = false →
      exec (.jogEnd c) s = .next ((emit c points s).setChan c
        { applyPending ch with phase := if j.ret = .idle then .idle else .held }))
    ∧ (atRest → j.ret = .held → (s.chan c).manualPending = true →
      ∃ t, exec (.jogEnd c) s = .next t ∧ RestsIn s t c .held ∧ LimitsApplied s t c
        ∧ (t.chan c).commanded = ch.commanded ∧ (t.chan c).last = (s.chan c).last
        ∧ (∀ z, s.floor.owners.get z = some c → t.floor.owners.get z = some c)
        ∧ (if s.monitor.headDue then t.link.nextBatch else t.link.batch).get c = some ⟨points, false⟩
        ∧ t.shots = s.shots ∧ t.monitor = s.monitor)

/-- R107, R133: a zone wait count that reaches a zone wait limit above 0 withdraws the channel, which keeps the zones
it held, and ends the move ZONE_TIMEOUT (11). R118, R123: a settle count that reaches the settle limit ends the move
SETTLE_TIMEOUT (2) in its post-state, with the rest zones kept.
That the MOVE END notice of a move timed out in ZONE_WAIT stands before what the walk of its withdrawal grants is the
model's choice (log entry 5).
That bits 3 to 7 of a MOVE END notice's flags byte are 0 is the model's reading (log entry 28). -/
def Obligations.ZoneAndSettleTimeoutsEndMoves : Prop :=
  (∀ (s : State) (c : Chan) (mv : Move), FieldReady s c → (s.chan c).phase = .zoneWait mv →
    (s.chan c).config.zoneWaitLimit ≠ 0 → (s.chan c).config.zoneWaitLimit ≤ min 4095 (mv.waitCount + 1) →
    ∃ t, exec (.zoneTimeout c) s = .next t ∧ MoveEnded s t c mv .zoneTimeout 11 (fun _ => True) .idle 0
      ∧ (t.chan c).commanded = (s.chan c).commanded
      ∧ (∀ w ∈ t.floor.waiters, w.channel ≠ c)
      ∧ t.link.batch = s.link.batch ∧ t.link.nextBatch = s.link.nextBatch
      ∧ t.shots = s.shots ∧ t.monitor = s.monitor)
  ∧ (∀ (s : State) (c : Chan) (mv : Move), FieldReady s c → (s.chan c).phase = .settling mv →
    (s.chan c).config.settleLimit ≤ mv.settleCount + 1 →
    ∃ t, exec (.settleTimeout c) s = .next t
      ∧ MoveEnded s t c mv .settleTimeout 2 (· ∈ mv.shot.rest) mv.post 0
      ∧ (t.chan c).commanded = (s.chan c).commanded
      ∧ (s.floor.waiters = [] → ∀ z d, d ≠ c → (t.floor.owners.get z = some d ↔ s.floor.owners.get z = some d))
      ∧ t.link.batch = s.link.batch ∧ t.link.nextBatch = s.link.nextBatch
      ∧ t.shots = s.shots ∧ t.monitor = s.monitor)

/-- R117, R122: a report that leaves every moved axis with a window within it of its clamped target ends a settling move
ARRIVED (1) in its post-state at that arrival, with the rest zones kept. R66: the report's following check comes first, and
this is a report that brings no count to 3.
That bits 3 to 7 of a MOVE END notice's flags byte are 0 is the model's reading (log entry 28). -/
def Obligations.ReportInPositionEndsSettlingArrived : Prop :=
  ∀ (s : State) (m : Msg) (c : Chan) (f : PositionFields) (mv : Move), FromHead s m (headCode .position) c →
    readPosition m.payload = some f → (s.chan c).phase = .settling mv → (s.chan c).valid = true →
    let now := fun a => (f.axes.get a).getD ((s.chan c).reported.get a)
    let checked : Axis → Bool := fun a => (s.chan c).config.mask.get a && (f.axes.get a).isSome
      && decide (((s.chan c).limits.get a).follow ≠ 0)
    let exceeds : Axis → Bool := fun a =>
      decide (((s.chan c).limits.get a).follow < (now a - ((s.chan c).history.get a).get (s.chan c).config.latency).natAbs)
    (∀ a, checked a = true → exceeds a = true → (s.chan c).followErrors.get a < 2) →
    let inPlace := ∀ a, mv.moved.get a = true → ((s.chan c).limits.get a).window ≠ 0 →
      (now a - mv.target.get a).natAbs ≤ ((s.chan c).limits.get a).window
    ∃ t, exec (.position m) s = .next t ∧ (∀ a, (t.chan c).reported.get a = now a) ∧ (t.chan c).reportAge = 0
      ∧ (t.chan c).headStatus = f.status
      ∧ (∀ a, (t.chan c).followErrors.get a = if checked a
          then (if exceeds a then (s.chan c).followErrors.get a + 1 else 0) else (s.chan c).followErrors.get a)
      ∧ (¬inPlace → (t.chan c).phase = .settling mv ∧ t.floor = s.floor ∧ t.out = s.out)
      ∧ (inPlace → MoveEnded s t c mv .arrived 1 (· ∈ mv.shot.rest) mv.post 0
          ∧ (t.chan c).commanded = (s.chan c).commanded)
      ∧ t.shots = s.shots ∧ t.monitor = s.monitor

/-- R62, R67, R70, R120: report age that reaches the report timeout in the motion set faults the channel REPORT_LOSS at that
field event, and it emits no setpoint there. That an age of 1 faults at a report timeout of 1 also where the channel took a
POSITION just before is the model's choice (log entry 24); that the FAULT notice stands after what the walk of a withdrawal
grants, and the MOVE END notice before it, is another (log entry 5).
That bits 3 to 7 of a MOVE END notice's flags byte are 0 is the model's reading (log entry 28). -/
def Obligations.ReportLossFaultsWithoutSetpoint : Prop :=
  ∀ (s : State) (c : Chan), s.resetHeld = false → (s.chan c).fieldDue = true →
    inMotion (s.chan c).phase = true → (s.chan c).config.reportTimeout ≤ min 255 ((s.chan c).reportAge + 1) →
    ∃ t, exec (.reportLoss c) s = .next t ∧ FaultEntered s t c .reportLoss
      ∧ (t.chan c).reportAge = min 255 ((s.chan c).reportAge + 1)
      ∧ (t.chan c).snapshot = ⟨(s.chan c).commanded, (s.chan c).reported⟩
      ∧ (t.chan c).reported = (s.chan c).reported ∧ (t.chan c).fieldDue = false
      ∧ t.link.batch = s.link.batch ∧ t.link.nextBatch = s.link.nextBatch
      ∧ t.shots = s.shots ∧ t.monitor = s.monitor

/-- R153: a manual wait count that reaches a zone wait limit above 0 withdraws the channel, which keeps the zones it
held; MANUAL DENY goes to the head, the notice is queued, and the channel enters its return state.
That the frame and the notice stand last, after what the walk of the withdrawal grants, is the model's choice (log
entry 5). -/
def Obligations.ManualWaitTimeoutDeniesRequest : Prop :=
  ∀ (s : State) (c : Chan) (r : RestState) (n : Nat), s.resetHeld = false → (s.chan c).fieldDue = true →
    (s.chan c).phase = .manualWait r n → (s.chan c).config.zoneWaitLimit ≠ 0 →
    (s.chan c).config.zoneWaitLimit ≤ min 4095 (n + 1) →
    ∃ t, exec (.manualWaitTimeout c) s = .next t
      ∧ (t.chan c).phase = (if r = .idle then .idle else .held)
      ∧ (∀ w ∈ t.floor.waiters, w.channel ≠ c)
      ∧ (∀ z, t.floor.owners.get z = some c ↔ s.floor.owners.get z = some c)
      ∧ (16 ≤ t.link.headControl.length ∨ t.link.headControl.getLast?
          = some ⟨(s.chan c).config.link, s.partAddress, 0x52, [1]⟩)
      ∧ (t.out.noticeLost = true ∨ t.out.entries.getLast?
          = some ⟨noticeFrame s (cameraEventPayload c .manualDeniedZones), none⟩)
      ∧ t.shots = s.shots ∧ t.monitor = s.monitor

/-! ## Jog and manual handover -/

/-- R142 to R145: a JOG frame starts a jog in IDLE or HELD, renews one in JOGGING, and is discarded in any other state or
with a wrong length. -/
def Obligations.JogFrameStartsRenewsOrIsDiscarded : Prop :=
  ∀ (s : State) (m : Msg) (c : Chan), AtCamera s m (cameraCode .jog) c →
    (readJog m.payload = none → exec (.jog m) s = .next (afterControl s))
    ∧ ∀ d, readJog m.payload = some d →
      let usable := fun a => if (s.chan c).config.mask.get a = true ∧ a ≠ .travel then d.get a else none
      (∀ r, ((s.chan c).phase = .idle ∧ r = .idle) ∨ ((s.chan c).phase = .held ∧ r = .held) →
        ((s.chan c).valid = true → (∃ a, usable a ≠ none) →
          exec (.jog m) s = .next (afterControl (s.modChan c fun ch => { ch with
            phase := .jogging ⟨.ofFn fun a => (usable a).map fun x => ⟨x, 0⟩, 0, r⟩
            followErrors := .all 0 })))
        ∧ ((s.chan c).valid = false ∨ (∀ a, usable a = none) → exec (.jog m) s = .next (afterControl s)))
      ∧ (∀ j, (s.chan c).phase = .jogging j →
        exec (.jog m) s = .next (afterControl (s.modChan c fun ch => { ch with
          phase := .jogging { j with
            axes := .ofFn fun a => match usable a with
              | some x => some ⟨x, ((j.axes.get a).map JogAxis.velocity).getD 0⟩
              | none => j.axes.get a
            age := 0 } })))
      ∧ ((s.chan c).phase ≠ .idle → (s.chan c).phase ≠ .held → (∀ j, (s.chan c).phase ≠ .jogging j) →
        exec (.jog m) s = .next (afterControl s))

/-- R151, R152, R154: MANUAL REQUEST, by the channel's state. R155: MANUAL RELEASE, by the channel's state.
That the notice WITHDRAWN stands last, after what the walk of the withdrawal grants, is the model's choice (log entry 5). -/
def Obligations.ManualRequestAndReleaseActByState : Prop :=
  (∀ (s : State) (m : Msg) (c : Chan), FromHead s m (headCode .manualRequest) c → m.payload = [] →
    let zones := (s.chan c).config.manualZones
    let free := ∀ z ∈ zones, ZoneOpen s c z
    (∀ r, ((s.chan c).phase = .idle ∧ r = .idle) ∨ ((s.chan c).phase = .held ∧ r = .held) → Walked s →
      (¬free → exec (.manualRequest m) s = .next (afterHead (({ s with
          floor := ⟨s.floor.owners, s.floor.waiters ++ [⟨c, .manual, zones⟩]⟩ } : State).modChan c fun ch =>
            { ch with phase := .manualWait r 0, manualPending := false })))
      ∧ (free → ∃ t, exec (.manualRequest m) s = .next t ∧ (t.chan c).phase = .manual r
          ∧ (t.chan c).manualPending = false ∧ t.floor.waiters = s.floor.waiters
          ∧ (∀ z, t.floor.owners.get z = if z ∈ zones then some c else s.floor.owners.get z)
          ∧ t.link.headControl = (if s.link.headControl.length < 16
              then s.link.headControl ++ [⟨(s.chan c).config.link, s.partAddress, 0x51, []⟩] else s.link.headControl)
          ∧ t.out = withNotice s (cameraEventPayload c .manualGranted)
          ∧ ∀ d, d ≠ c → t.chan d = s.chan d))
    ∧ (inMotion (s.chan c).phase = true → exec (.manualRequest m) s
        = .next (afterHead (s.modChan c fun ch => { ch with manualPending := true })))
    ∧ (∀ r n, (s.chan c).phase = .manualWait r n ∨ (s.chan c).phase = .manual r →
        exec (.manualRequest m) s = .next (afterHead s))
    ∧ ((s.chan c).phase = .fault → exec (.manualRequest m) s = .next (afterHead { s with
        out := withNotice s (cameraEventPayload c .manualDeniedFault)
        link := { s.link with headControl := if s.link.headControl.length < 16
          then s.link.headControl ++ [⟨(s.chan c).config.link, s.partAddress, 0x52, [2]⟩]
          else s.link.headControl } })))
  ∧ (∀ (s : State) (m : Msg) (c : Chan), FromHead s m (headCode .manualRelease) c → m.payload = [] →
    (∀ r, (s.chan c).phase = .manual r →
      let rest : Phase := if r = .idle then .idle else .held
      exec (.manualRelease m) s = .next (afterHead
        (({ s with out := withNotice s (cameraEventPayload c .manualReleased) } : State).modChan c fun ch =>
          if ch.valid then
            { ch with
              phase := rest
              commanded := ch.reported
              history := .ofFn fun a => History.fill (ch.reported.get a) }
          else { ch with phase := rest })))
    ∧ (∀ r n, (s.chan c).phase = .manualWait r n →
      ∃ t, exec (.manualRelease m) s = .next t ∧ (t.chan c).phase = (if r = .idle then .idle else .held)
        ∧ (∀ w ∈ t.floor.waiters, w.channel ≠ c)
        ∧ (∀ z, t.floor.owners.get z = some c ↔ s.floor.owners.get z = some c)
        ∧ (t.chan c).commanded = (s.chan c).commanded
        ∧ (t.out.noticeLost = true ∨ t.out.entries.getLast?
            = some ⟨noticeFrame s (cameraEventPayload c .manualWithdrawn), none⟩)
        ∧ t.shots = s.shots ∧ t.monitor = s.monitor)
    ∧ ((∀ r n, (s.chan c).phase ≠ .manual r ∧ (s.chan c).phase ≠ .manualWait r n) →
      exec (.manualRelease m) s = .next (afterHead s)))

/-! ## The Reference Monitor -/

/-- R161 to R163: a reference pulse outside LOCKED starts a window, is counted in it, or ends it: with a lock when the
eight intervals took 120,000 µs or more, and with no change of state when they took less. R159, R163, R164: in LOCKED
a pulse earlier than the held period less 500 µs after the latest field event is ignored, unless it is the first after
the lock; any other is a field event, which reloads the flywheel timer.
R160: each taker named takes the field event within the command, in their order, and it stays due to the others. The times
at which a pulse can come, and the takers of its field event, are the model's choices (log entries 2 and 3). -/
def Obligations.ReferencePulseMeasuresLocksOrBeats : Prop :=
  (∀ (s : State) (t : Nat) (takers : List Taker), s.resetHeld = false → timeOpen s.monitor t = true →
    s.monitor.state ≠ .locked →
    (s.monitor.window = none →
      exec (.referencePulse t takers) s = .next (if s.monitor.state = .absent then
          { s with
            monitor := { s.monitor with now := t, window := some ⟨t, 0⟩, state := .acquire }
            out := withNotice s [3, 0xFF, 1, BitVec.ofNat 8 (s.monitor.heldPeriod / 256),
              BitVec.ofNat 8 s.monitor.heldPeriod] }
        else { s with monitor := { s.monitor with now := t, window := some ⟨t, 0⟩ } }))
    ∧ ∀ w, s.monitor.window = some w →
      (w.pulses < 7 → exec (.referencePulse t takers) s = .next { s with
        monitor := { s.monitor with now := t, window := some { w with pulses := w.pulses + 1 } } })
      ∧ (w.pulses = 7 → t - w.startAt < 120000 → exec (.referencePulse t takers) s = .next { s with
        monitor := { s.monitor with now := t, window := none } })
      ∧ (w.pulses = 7 → 120000 ≤ t - w.startAt →
        let period := (t - w.startAt + 4) / 8
        exec (.referencePulse t takers) s = .next { s with
          monitor := { s.monitor with
            now := t, window := none, state := .locked, heldPeriod := period, flywheelAt := t + period + 500,
            afterLock := true }
          out := withNotice s [3, 0xFF, 2, BitVec.ofNat 8 (period / 256), BitVec.ofNat 8 period] }))
  ∧ (∀ (s : State) (t : Nat) (takers : List Taker), s.resetHeld = false → timeOpen s.monitor t = true →
    s.monitor.state = .locked →
    let takes := fun (u : State) (k : Taker) => match k with
      | .headPort => if u.monitor.headDue then { u with
          link := { u.link with batch := u.link.nextBatch, nextBatch := Batch.empty }
          monitor := { u.monitor with headDue := false } } else u
      | .channel c => takeField c u
    (s.monitor.afterLock = false → t + 500 < s.monitor.lastFieldAt + s.monitor.heldPeriod →
      exec (.referencePulse t takers) s = .next { s with monitor := { s.monitor with now := t } })
    ∧ (s.monitor.afterLock = true ∨ s.monitor.lastFieldAt + s.monitor.heldPeriod ≤ t + 500 →
      ∃ v u, exec (.referencePulse t []) s = .next v ∧ exec (.referencePulse t takers) s = .next u
        ∧ u = takers.foldl takes v ∧ v.monitor.headDue = true ∧ (∀ c, (v.chan c).fieldDue = mapped (v.chan c))
        ∧ (u.monitor.headDue = true ↔ .headPort ∉ takers)
        ∧ (∀ c, (u.chan c).fieldDue = true ↔ mapped (u.chan c) = true ∧ .channel c ∉ takers)
        ∧ u.monitor.now = t ∧ u.monitor.lastFieldAt = t ∧ u.monitor.flywheelAt = t + s.monitor.heldPeriod + 500
        ∧ u.monitor.state = .locked ∧ u.monitor.fieldState = .locked ∧ u.monitor.afterLock = false
        ∧ u.monitor.heldPeriod = s.monitor.heldPeriod ∧ u.monitor.window = s.monitor.window
        ∧ u.shots = s.shots ∧ u.partAddress = s.partAddress))

/-- R162: a window whose elapsed time reaches 168,000 µs ends, and ACQUIRE or FLYWHEEL becomes ABSENT with a notice.
R159, R165, R166: the expiry of the flywheel timer is a field event and reloads the timer one held period later; in
LOCKED it is the loss of the reference, delivered in FLYWHEEL with a notice.
R160: each taker named takes the field event within the command, in their order, and it stays due to the others. The times
at which these can come, and the takers of a field event, are the model's choices (log entries 2 and 3). -/
def Obligations.WindowLimitAndFlywheelExpiryActByState : Prop :=
  (∀ (s : State) (w : Window), s.resetHeld = false → s.monitor.window = some w →
    timeOpen s.monitor (w.startAt + 168000) = true →
    (s.monitor.state = .acquire ∨ s.monitor.state = .flywheel →
      exec .windowElapsedLimit s = .next { s with
        monitor := { s.monitor with now := w.startAt + 168000, window := none, state := .absent }
        out := withNotice s [3, 0xFF, 0, BitVec.ofNat 8 (s.monitor.heldPeriod / 256),
          BitVec.ofNat 8 s.monitor.heldPeriod] }))
  ∧ (∀ (s : State) (takers : List Taker), s.resetHeld = false → timeOpen s.monitor s.monitor.flywheelAt = true →
    let takes := fun (u : State) (k : Taker) => match k with
      | .headPort => if u.monitor.headDue then { u with
          link := { u.link with batch := u.link.nextBatch, nextBatch := Batch.empty }
          monitor := { u.monitor with headDue := false } } else u
      | .channel c => takeField c u
    ∃ v u, exec (.flywheelTimerExpiry []) s = .next v ∧ exec (.flywheelTimerExpiry takers) s = .next u
      ∧ u = takers.foldl takes v ∧ v.monitor.headDue = true ∧ (∀ c, (v.chan c).fieldDue = mapped (v.chan c))
      ∧ (u.monitor.headDue = true ↔ .headPort ∉ takers)
      ∧ (∀ c, (u.chan c).fieldDue = true ↔ mapped (u.chan c) = true ∧ .channel c ∉ takers)
      ∧ u.monitor.now = s.monitor.flywheelAt ∧ u.monitor.lastFieldAt = s.monitor.flywheelAt
      ∧ u.monitor.flywheelAt = s.monitor.flywheelAt + s.monitor.heldPeriod
      ∧ u.monitor.heldPeriod = s.monitor.heldPeriod ∧ u.monitor.window = s.monitor.window
      ∧ u.monitor.state = (if s.monitor.state = .locked then .flywheel else s.monitor.state)
      ∧ u.monitor.fieldState = u.monitor.state ∧ u.monitor.afterLock = false
      ∧ (s.monitor.headDue = false → (∀ c, (s.chan c).fieldDue = false) → s.monitor.state = .locked →
          v.out = withNotice s [3, 0xFF, 3, BitVec.ofNat 8 (s.monitor.heldPeriod / 256),
            BitVec.ofNat 8 s.monitor.heldPeriod])
      ∧ u.shots = s.shots)

/-! ## The Motion Link -/

/-- R173, R175, R176: a frame that is not the part's business joins the tail of the forward queue of its direction
unchanged, or is discarded when that queue is full; a kind the part does not take at its own address is answered
BAD_KIND. R192: each has reached the part, a forwarded or discarded one by the model's reading (log entry 29). -/
def Obligations.ForeignFramesAreForwardedOrBadKind : Prop :=
  ∀ (s : State) (f : Frame), Receivable s f →
    let down := { s.link with
      controlRx := []
      reached := true
      downstream := (if s.link.downstream.length < 8 then s.link.downstream ++ [f] else s.link.downstream) }
    let up := { s.link with
      headRx := []
      reached := true
      upstream := (if s.link.upstream.length < 16 then s.link.upstream ++ [f] else s.link.upstream) }
    ((f.dest = s.partAddress ∧ 0x80 ≤ f.kind.toNat)
        ∨ (f.dest ≠ s.partAddress ∧ (∃ c, s.channelAt f.dest = some c)
            ∧ (f.kind.toNat < 0x10 ∨ 0x16 < f.kind.toNat))
        ∨ (f.dest ≠ s.partAddress ∧ s.channelAt f.dest = none
            ∧ ¬(f.dest = 31 ∧ f.kind = 0x12 ∧ f.payload = [])) →
      exec (.forwardDownstream f) s = .next { s with link := down })
    ∧ (f.kind.toNat < 0x60 ∨ 0x63 < f.kind.toNat
        ∨ (s.channelAt f.source = none ∧ (f.kind = 0x60 ∨ f.kind = 0x61)) →
      exec (.forwardUpstream f) s = .next { s with link := up })
    ∧ (f.dest = s.partAddress → s.outFree ≠ 0 → f.kind.toNat < 0x20 ∨ (0x2C < f.kind.toNat ∧ f.kind.toNat < 0x80) →
      exec (.badKindFrame f) s = .next (withAnswer s f.kind (refuse .badKind)))

/-- R170, R171: the bytes of a frame that arrive at a hunting receiver are received as that frame, whatever bytes other
than A5h come before it, and the receiver hunts again. A candidate whose length byte is above 96 or whose check does not
match is discarded, and hunting resumes at the byte after its A5h; a candidate not yet whole stays in progress.
That the command CANDIDATE_DISCARD takes any bytes that arrive, those that discard no candidate among them, is the model's
choice (log entry 8). -/
def Obligations.FrameBytesAreReceivedAndBadCandidatesDiscarded : Prop :=
  (∀ (s : State) (p : Port) (noise : List Byte) (f : Frame), s.resetHeld = false → rxOf p s = [] →
    (∀ b ∈ noise, b ≠ 0xA5) → f.payload.length ≤ 96 →
    exec (.candidateDiscard p (noise ++ frameBytes f)) s = .next (setRx p [] (receive p f s)))
  ∧ (∀ (s : State) (p : Port) (dest source kind len : Byte) (more : List Byte), s.resetHeld = false → rxOf p s = [] →
    let rest := dest :: source :: kind :: len :: more
    let body := dest :: source :: kind :: len :: more.take len.toNat
    (96 < len.toNat ∨ (len.toNat + 2 ≤ more.length
        ∧ (more.drop len.toNat).take 2 ≠ be16 (crc16 body).toNat) →
      exec (.candidateDiscard p (0xA5 :: rest)) s = exec (.candidateDiscard p rest) s)
    ∧ (len.toNat ≤ 96 → more.length < len.toNat + 2 →
      exec (.candidateDiscard p (0xA5 :: rest)) s = .next (setRx p (0xA5 :: rest) s)))

/-- R177, R179: at a frame boundary the Head Port sends the unsent setpoint of the lowest channel, else the oldest
frame of the head control list, else the oldest downstream frame. R180, R185: at a frame boundary the Control Port
sends the second part of an answer in progress, else the oldest upstream frame, else the frame of the oldest Outbound
Queue entry, which leaves with its last frame. R192: until a frame has reached the part neither sends anything, whatever
waits. -/
def Obligations.FrameBoundariesSendInOrder : Prop :=
  (∀ s : State, s.link.reached = false →
    exec .headPortFrameBoundary s = .next s ∧ exec .controlPortFrameBoundary s = .next s)
  ∧ (∀ s : State, s.resetHeld = false → s.link.reached = true →
    (∀ c f, s.link.batch.get c = some ⟨f, false⟩ →
      (∀ d, d < c → ∀ x, s.link.batch.get d = some x → x.sent = true) →
      exec .headPortFrameBoundary s = .next { s with link := { s.link with
        headLine := some f
        batch := s.link.batch.set c.val (some ⟨f, true⟩) c.isLt } })
    ∧ ((∀ c x, s.link.batch.get c = some x → x.sent = true) →
      exec .headPortFrameBoundary s = .next { s with link := (match s.link.headControl, s.link.downstream with
        | f :: fs, _ => { s.link with headLine := some f, headControl := fs }
        | [], f :: fs => { s.link with headLine := some f, downstream := fs }
        | [], [] => { s.link with headLine := none }) }))
  ∧ (∀ s : State, s.resetHeld = false → s.link.reached = true →
    (∀ e es, s.link.controlSecond = true → s.out.entries = e :: es →
      exec .controlPortFrameBoundary s = .next { s with
        link := { s.link with controlLine := e.second, controlSecond := false }
        out := { s.out with entries := es } })
    ∧ (s.link.controlSecond = false →
      (∀ f fs, s.link.upstream = f :: fs →
        exec .controlPortFrameBoundary s = .next { s with
          link := { s.link with controlLine := some f, upstream := fs } })
      ∧ (s.link.upstream = [] → ∀ e es, s.out.entries = e :: es →
        (e.second = none → exec .controlPortFrameBoundary s = .next { s with
          link := { s.link with controlLine := some e.first }
          out := { s.out with entries := es } })
        ∧ (e.second ≠ none → exec .controlPortFrameBoundary s = .next { s with
          link := { s.link with controlLine := some e.first, controlSecond := true } }))
      ∧ (s.link.upstream = [] → s.out.entries = [] →
        exec .controlPortFrameBoundary s = .next { s with link := { s.link with controlLine := none } })))

/-! ## The part as a whole -/

/-- R191: PART QUERY answers the part's identity and condition, and clears the notice-lost flag. -/
def Obligations.PartQueryAnswersAndClearsNoticeLost : Prop :=
  ∀ (s : State) (m : Msg), AtPart s m (partCode .partQuery) → m.payload = [] →
    exec (.partQuery m) s = .next (withAnswer { s with out := { s.out with noticeLost := false } } 0x2B
      (reply .ok ([0x0B, 0x06, 0x12, 0x01, s.partAddress,
          match s.monitor.state with | .absent => 0 | .acquire => 1 | .locked => 2 | .flywheel => 3]
        ++ be16 s.monitor.heldPeriod ++ [BitVec.ofNat 8 s.poolFree] ++ be16 s.shots.length
        ++ [if s.out.noticeLost then 1 else 0])))

/-- R193 with R2, R21, R72, R78, R96, R126: an accepted RESET frame empties the queues and the floor, returns mapped
channels to IDLE and applies pending limits, and keeps the shots, the records and the Reference Monitor. The admission
ranks start afresh, and the second part of a ZONE READ answer in progress is discarded. -/
def Obligations.ResetFrameResetsAllButStoredRecords : Prop :=
  ∀ (s : State) (m : Msg) (b : Byte), AtPart s m (partCode .reset) → m.payload = [b] →
    (1 < b.toNat → exec (.reset m) s = .next (withAnswer s 0x2C (refuse .badParam)))
    ∧ (b.toNat ≤ 1 → ∃ t, exec (.reset m) s = .next t
      ∧ t.shots = s.shots ∧ t.monitor = s.monitor ∧ t.partAddress = s.partAddress
      ∧ t.poolFree = 64 ∧ t.parkOrder = [] ∧ t.floor.waiters = [] ∧ (∀ z, t.floor.owners.get z = none)
      ∧ (∀ c, (t.chan c).phase = (if (s.chan c).phase = .vacant then .vacant else .idle)
          ∧ (t.chan c).tally = .offAir ∧ (t.chan c).config = (s.chan c).config
          ∧ (t.chan c).queue = [] ∧ (t.chan c).parked = none ∧ (t.chan c).nextRank = 0
          ∧ (t.chan c).commanded = (s.chan c).commanded ∧ (t.chan c).reported = (s.chan c).reported
          ∧ (∀ a, (t.chan c).pendingLimits.get a = none
              ∧ (t.chan c).limits.get a = match (s.chan c).pendingLimits.get a with
                | some l => clampLive l
                | none => (s.chan c).limits.get a)
          ∧ ((s.chan c).phase ≠ .vacant → (t.chan c).valid = false ∧ (t.chan c).manualPending = false
              ∧ (t.chan c).reportAge = 0 ∧ (t.chan c).headStatus = 0 ∧ (t.chan c).last = none
              ∧ ∀ a, (t.chan c).followErrors.get a = 0 ∧ (t.chan c).history.get a = History.fill 0
                ∧ (t.chan c).snapshot.commanded.get a = 0 ∧ (t.chan c).snapshot.reported.get a = 0))
      ∧ t.link.downstream = [] ∧ t.link.upstream = [] ∧ t.link.controlSecond = false
      ∧ (∀ c, t.link.batch.get c = none ∧ t.link.nextBatch.get c = none)
      ∧ t.link.headControl = (if b = 1 then [⟨31, s.partAddress, 0x2C, [0]⟩] else [])
      ∧ t.link.headLine = s.link.headLine ∧ t.link.controlLine = s.link.controlLine ∧ t.link.headRx = s.link.headRx
      ∧ t.out = ⟨[answerEntry s 0x2C (reply .ok [b])], s.out.reserved, false⟩)

/-! ## Invariants that every step keeps -/

/-- R1, R3, R6, R20, R22 to R24, R53 to R55, R158, R169, R176, R178, R185: what every step keeps, from every state that
has it: the ranges of every stored record and the order of the link addresses among it. R192: among it too, that both
transmit lines are idle until a frame has reached the part. -/
def Obligations.StepKeepsPartInvariant : Prop :=
  ∀ s t : State, PartOk s → step s = .next t → PartOk t

/-- The invariant holds at the state right after reset. The invariants of the pool and the floor hold at the state right
after reset. -/
def Obligations.ResetStateHasInvariants : Prop :=
  PartOk State.reset ∧ CueFloorOk State.reset ∧ WalkedOk State.reset

/-- R80, R82, R83, R99, R126, R127: the pool's 64 entries are free, queued or active, the Park Order names the channels
with a parked call, and each waiter belongs to a channel in its waiting state: every step keeps these together. -/
def Obligations.StepKeepsPoolAndFloorInvariant : Prop :=
  ∀ s t : State, CueFloorOk s → step s = .next t → CueFloorOk t

/-- R130: every event that changes the Zone Wait List or frees a zone runs the walk within it: after every step no waiter
left on the list would be granted. -/
def Obligations.StepLeavesNoGrantableWaiter : Prop :=
  ∀ s t : State, WalkedOk s → step s = .next t → WalkedOk t
end

