-- ==== Sys2Proof/Laws/State.lean ====
section
/-! SUPPORT. What each update of the state and each small shared operation leaves in every field: one lemma per field
per update. -/

namespace Sys2Proof.Machine

/-! ## One value per axis -/

@[simp] theorem PerAxis_get_ofFn {α : Type} (f : Axis → α) (a : Axis) : (PerAxis.ofFn f).get a = f a := by cases a <;> rfl

@[simp] theorem PerAxis_get_all {α : Type} (x : α) (a : Axis) : (PerAxis.all x).get a = x := by cases a <;> rfl

@[simp] theorem PerAxis_get_set {α : Type} (v : PerAxis α) (a b : Axis) (x : α) :
    (v.set a x).get b = if b = a then x else v.get b := by simp [PerAxis.set]

theorem PerAxis_ext {α : Type} (v w : PerAxis α) (h : ∀ a, v.get a = w.get a) : v = w := by
  cases v
  cases w
  have h1 := h .pan
  have h2 := h .tilt
  have h3 := h .zoom
  have h4 := h .focus
  have h5 := h .lift
  have h6 := h .travel
  simp_all [PerAxis.get]

/-- Every axis is in the list of the axes. -/
theorem mem_allAxes (a : Axis) : a ∈ allAxes := by cases a <;> decide

/-- Every channel is in the list of the channels. -/
theorem mem_allChans (c : Chan) : c ∈ allChans := by revert c; decide

/-- The channels are listed once each. -/
theorem allChans_nodup : allChans.Nodup := by decide

/-- Every zone is in the list of the zones. -/
theorem mem_allZones (z : Zone) : z ∈ allZones := by revert z; decide

/-! ## Channels -/

@[simp] theorem setChan_chan (s : State) (c d : Chan) (ch : Channel) :
    (s.setChan c ch).chan d = if d = c then ch else s.chan d := by
  have get (v : Vector Channel 16) (e : Chan) : v.get e = v[e.val] := rfl
  simp only [State.chan, State.setChan, get, Vector.getElem_set]
  by_cases h : d = c
  · simp [h]
  · have : c.val ≠ d.val := fun e => h (Fin.ext e.symm)
    simp [h, this]

@[simp] theorem modChan_chan (s : State) (c d : Chan) (f : Channel → Channel) :
    (s.modChan c f).chan d = if d = c then f (s.chan c) else s.chan d := by
  simp only [State.modChan, setChan_chan]

theorem modChan_chan_self (s : State) (c : Chan) (f : Channel → Channel) : (s.modChan c f).chan c = f (s.chan c) := by
  simp

theorem modChan_chan_ne (s : State) {c d : Chan} (f : Channel → Channel) (h : d ≠ c) :
    (s.modChan c f).chan d = s.chan d := by simp [h]

@[simp] theorem setChan_resetHeld (s : State) (c : Chan) (ch : Channel) : (s.setChan c ch).resetHeld = s.resetHeld := rfl
@[simp] theorem setChan_partAddress (s : State) (c : Chan) (ch : Channel) : (s.setChan c ch).partAddress = s.partAddress := rfl
@[simp] theorem setChan_shots (s : State) (c : Chan) (ch : Channel) : (s.setChan c ch).shots = s.shots := rfl
@[simp] theorem setChan_poolFree (s : State) (c : Chan) (ch : Channel) : (s.setChan c ch).poolFree = s.poolFree := rfl
@[simp] theorem setChan_parkOrder (s : State) (c : Chan) (ch : Channel) : (s.setChan c ch).parkOrder = s.parkOrder := rfl
@[simp] theorem setChan_floor (s : State) (c : Chan) (ch : Channel) : (s.setChan c ch).floor = s.floor := rfl
@[simp] theorem setChan_monitor (s : State) (c : Chan) (ch : Channel) : (s.setChan c ch).monitor = s.monitor := rfl
@[simp] theorem setChan_link (s : State) (c : Chan) (ch : Channel) : (s.setChan c ch).link = s.link := rfl
@[simp] theorem setChan_out (s : State) (c : Chan) (ch : Channel) : (s.setChan c ch).out = s.out := rfl
@[simp] theorem setChan_pending (s : State) (c : Chan) (ch : Channel) : (s.setChan c ch).pending = s.pending := rfl

@[simp] theorem modChan_resetHeld (s : State) (c : Chan) (f : Channel → Channel) : (s.modChan c f).resetHeld = s.resetHeld := rfl
@[simp] theorem modChan_partAddress (s : State) (c : Chan) (f : Channel → Channel) : (s.modChan c f).partAddress = s.partAddress := rfl
@[simp] theorem modChan_shots (s : State) (c : Chan) (f : Channel → Channel) : (s.modChan c f).shots = s.shots := rfl
@[simp] theorem modChan_poolFree (s : State) (c : Chan) (f : Channel → Channel) : (s.modChan c f).poolFree = s.poolFree := rfl
@[simp] theorem modChan_parkOrder (s : State) (c : Chan) (f : Channel → Channel) : (s.modChan c f).parkOrder = s.parkOrder := rfl
@[simp] theorem modChan_floor (s : State) (c : Chan) (f : Channel → Channel) : (s.modChan c f).floor = s.floor := rfl
@[simp] theorem modChan_monitor (s : State) (c : Chan) (f : Channel → Channel) : (s.modChan c f).monitor = s.monitor := rfl
@[simp] theorem modChan_link (s : State) (c : Chan) (f : Channel → Channel) : (s.modChan c f).link = s.link := rfl
@[simp] theorem modChan_out (s : State) (c : Chan) (f : Channel → Channel) : (s.modChan c f).out = s.out := rfl
@[simp] theorem modChan_pending (s : State) (c : Chan) (f : Channel → Channel) : (s.modChan c f).pending = s.pending := rfl

/-! ## The Outbound Queue -/

@[simp] theorem reserve_resetHeld (s : State) : (reserve s).resetHeld = s.resetHeld := rfl
@[simp] theorem reserve_partAddress (s : State) : (reserve s).partAddress = s.partAddress := rfl
@[simp] theorem reserve_shots (s : State) : (reserve s).shots = s.shots := rfl
@[simp] theorem reserve_channels (s : State) : (reserve s).channels = s.channels := rfl
@[simp] theorem reserve_poolFree (s : State) : (reserve s).poolFree = s.poolFree := rfl
@[simp] theorem reserve_parkOrder (s : State) : (reserve s).parkOrder = s.parkOrder := rfl
@[simp] theorem reserve_floor (s : State) : (reserve s).floor = s.floor := rfl
@[simp] theorem reserve_monitor (s : State) : (reserve s).monitor = s.monitor := rfl
@[simp] theorem reserve_link (s : State) : (reserve s).link = s.link := rfl
@[simp] theorem reserve_pending (s : State) : (reserve s).pending = s.pending := rfl

@[simp] theorem reserve_entries (s : State) : (reserve s).out.entries = s.out.entries := rfl
@[simp] theorem reserve_reserved (s : State) : (reserve s).out.reserved = s.out.reserved + 1 := rfl
@[simp] theorem reserve_noticeLost (s : State) : (reserve s).out.noticeLost = s.out.noticeLost := rfl

@[simp] theorem fillAnswer_resetHeld (k : Byte) (r : Reply) (s : State) : (fillAnswer k r s).resetHeld = s.resetHeld := rfl
@[simp] theorem fillAnswer_partAddress (k : Byte) (r : Reply) (s : State) : (fillAnswer k r s).partAddress = s.partAddress := rfl
@[simp] theorem fillAnswer_shots (k : Byte) (r : Reply) (s : State) : (fillAnswer k r s).shots = s.shots := rfl
@[simp] theorem fillAnswer_channels (k : Byte) (r : Reply) (s : State) : (fillAnswer k r s).channels = s.channels := rfl
@[simp] theorem fillAnswer_poolFree (k : Byte) (r : Reply) (s : State) : (fillAnswer k r s).poolFree = s.poolFree := rfl
@[simp] theorem fillAnswer_parkOrder (k : Byte) (r : Reply) (s : State) : (fillAnswer k r s).parkOrder = s.parkOrder := rfl
@[simp] theorem fillAnswer_floor (k : Byte) (r : Reply) (s : State) : (fillAnswer k r s).floor = s.floor := rfl
@[simp] theorem fillAnswer_monitor (k : Byte) (r : Reply) (s : State) : (fillAnswer k r s).monitor = s.monitor := rfl
@[simp] theorem fillAnswer_link (k : Byte) (r : Reply) (s : State) : (fillAnswer k r s).link = s.link := rfl
@[simp] theorem fillAnswer_pending (k : Byte) (r : Reply) (s : State) : (fillAnswer k r s).pending = s.pending := rfl

@[simp] theorem fillAnswer_entries (k : Byte) (r : Reply) (s : State) :
    (fillAnswer k r s).out.entries = s.out.entries ++ [answerEntry s k r] := rfl
@[simp] theorem fillAnswer_reserved (k : Byte) (r : Reply) (s : State) :
    (fillAnswer k r s).out.reserved = s.out.reserved - 1 := rfl
@[simp] theorem fillAnswer_noticeLost (k : Byte) (r : Reply) (s : State) :
    (fillAnswer k r s).out.noticeLost = s.out.noticeLost := rfl

@[simp] theorem notice_resetHeld (p : List Byte) (s : State) : (notice p s).resetHeld = s.resetHeld := by
  unfold notice
  split <;> rfl
@[simp] theorem notice_partAddress (p : List Byte) (s : State) : (notice p s).partAddress = s.partAddress := by
  unfold notice
  split <;> rfl
@[simp] theorem notice_shots (p : List Byte) (s : State) : (notice p s).shots = s.shots := by
  unfold notice
  split <;> rfl
@[simp] theorem notice_channels (p : List Byte) (s : State) : (notice p s).channels = s.channels := by
  unfold notice
  split <;> rfl
@[simp] theorem notice_poolFree (p : List Byte) (s : State) : (notice p s).poolFree = s.poolFree := by
  unfold notice
  split <;> rfl
@[simp] theorem notice_parkOrder (p : List Byte) (s : State) : (notice p s).parkOrder = s.parkOrder := by
  unfold notice
  split <;> rfl
@[simp] theorem notice_floor (p : List Byte) (s : State) : (notice p s).floor = s.floor := by
  unfold notice
  split <;> rfl
@[simp] theorem notice_monitor (p : List Byte) (s : State) : (notice p s).monitor = s.monitor := by
  unfold notice
  split <;> rfl
@[simp] theorem notice_link (p : List Byte) (s : State) : (notice p s).link = s.link := by
  unfold notice
  split <;> rfl
@[simp] theorem notice_pending (p : List Byte) (s : State) : (notice p s).pending = s.pending := by
  unfold notice
  split <;> rfl

/-! ## Forward queues, lists and batches -/

@[simp] theorem forwardDown_resetHeld (f : Frame) (s : State) : (forwardDown f s).resetHeld = s.resetHeld := by
  unfold forwardDown
  split <;> rfl
@[simp] theorem forwardDown_partAddress (f : Frame) (s : State) : (forwardDown f s).partAddress = s.partAddress := by
  unfold forwardDown
  split <;> rfl
@[simp] theorem forwardDown_shots (f : Frame) (s : State) : (forwardDown f s).shots = s.shots := by
  unfold forwardDown
  split <;> rfl
@[simp] theorem forwardDown_channels (f : Frame) (s : State) : (forwardDown f s).channels = s.channels := by
  unfold forwardDown
  split <;> rfl
@[simp] theorem forwardDown_poolFree (f : Frame) (s : State) : (forwardDown f s).poolFree = s.poolFree := by
  unfold forwardDown
  split <;> rfl
@[simp] theorem forwardDown_parkOrder (f : Frame) (s : State) : (forwardDown f s).parkOrder = s.parkOrder := by
  unfold forwardDown
  split <;> rfl
@[simp] theorem forwardDown_floor (f : Frame) (s : State) : (forwardDown f s).floor = s.floor := by
  unfold forwardDown
  split <;> rfl
@[simp] theorem forwardDown_monitor (f : Frame) (s : State) : (forwardDown f s).monitor = s.monitor := by
  unfold forwardDown
  split <;> rfl
@[simp] theorem forwardDown_out (f : Frame) (s : State) : (forwardDown f s).out = s.out := by
  unfold forwardDown
  split <;> rfl
@[simp] theorem forwardDown_pending (f : Frame) (s : State) : (forwardDown f s).pending = s.pending := by
  unfold forwardDown
  split <;> rfl

@[simp] theorem forwardUp_resetHeld (f : Frame) (s : State) : (forwardUp f s).resetHeld = s.resetHeld := by
  unfold forwardUp
  split <;> rfl
@[simp] theorem forwardUp_partAddress (f : Frame) (s : State) : (forwardUp f s).partAddress = s.partAddress := by
  unfold forwardUp
  split <;> rfl
@[simp] theorem forwardUp_shots (f : Frame) (s : State) : (forwardUp f s).shots = s.shots := by
  unfold forwardUp
  split <;> rfl
@[simp] theorem forwardUp_channels (f : Frame) (s : State) : (forwardUp f s).channels = s.channels := by
  unfold forwardUp
  split <;> rfl
@[simp] theorem forwardUp_poolFree (f : Frame) (s : State) : (forwardUp f s).poolFree = s.poolFree := by
  unfold forwardUp
  split <;> rfl
@[simp] theorem forwardUp_parkOrder (f : Frame) (s : State) : (forwardUp f s).parkOrder = s.parkOrder := by
  unfold forwardUp
  split <;> rfl
@[simp] theorem forwardUp_floor (f : Frame) (s : State) : (forwardUp f s).floor = s.floor := by
  unfold forwardUp
  split <;> rfl
@[simp] theorem forwardUp_monitor (f : Frame) (s : State) : (forwardUp f s).monitor = s.monitor := by
  unfold forwardUp
  split <;> rfl
@[simp] theorem forwardUp_out (f : Frame) (s : State) : (forwardUp f s).out = s.out := by
  unfold forwardUp
  split <;> rfl
@[simp] theorem forwardUp_pending (f : Frame) (s : State) : (forwardUp f s).pending = s.pending := by
  unfold forwardUp
  split <;> rfl

@[simp] theorem pushHead_resetHeld (f : Frame) (s : State) : (pushHead f s).resetHeld = s.resetHeld := by
  unfold pushHead
  split <;> rfl
@[simp] theorem pushHead_partAddress (f : Frame) (s : State) : (pushHead f s).partAddress = s.partAddress := by
  unfold pushHead
  split <;> rfl
@[simp] theorem pushHead_shots (f : Frame) (s : State) : (pushHead f s).shots = s.shots := by
  unfold pushHead
  split <;> rfl
@[simp] theorem pushHead_channels (f : Frame) (s : State) : (pushHead f s).channels = s.channels := by
  unfold pushHead
  split <;> rfl
@[simp] theorem pushHead_poolFree (f : Frame) (s : State) : (pushHead f s).poolFree = s.poolFree := by
  unfold pushHead
  split <;> rfl
@[simp] theorem pushHead_parkOrder (f : Frame) (s : State) : (pushHead f s).parkOrder = s.parkOrder := by
  unfold pushHead
  split <;> rfl
@[simp] theorem pushHead_floor (f : Frame) (s : State) : (pushHead f s).floor = s.floor := by
  unfold pushHead
  split <;> rfl
@[simp] theorem pushHead_monitor (f : Frame) (s : State) : (pushHead f s).monitor = s.monitor := by
  unfold pushHead
  split <;> rfl
@[simp] theorem pushHead_out (f : Frame) (s : State) : (pushHead f s).out = s.out := by
  unfold pushHead
  split <;> rfl
@[simp] theorem pushHead_pending (f : Frame) (s : State) : (pushHead f s).pending = s.pending := by
  unfold pushHead
  split <;> rfl

@[simp] theorem emit_resetHeld (c : Chan) (f : Frame) (s : State) : (emit c f s).resetHeld = s.resetHeld := by
  unfold emit
  split <;> rfl
@[simp] theorem emit_partAddress (c : Chan) (f : Frame) (s : State) : (emit c f s).partAddress = s.partAddress := by
  unfold emit
  split <;> rfl
@[simp] theorem emit_shots (c : Chan) (f : Frame) (s : State) : (emit c f s).shots = s.shots := by
  unfold emit
  split <;> rfl
@[simp] theorem emit_channels (c : Chan) (f : Frame) (s : State) : (emit c f s).channels = s.channels := by
  unfold emit
  split <;> rfl
@[simp] theorem emit_poolFree (c : Chan) (f : Frame) (s : State) : (emit c f s).poolFree = s.poolFree := by
  unfold emit
  split <;> rfl
@[simp] theorem emit_parkOrder (c : Chan) (f : Frame) (s : State) : (emit c f s).parkOrder = s.parkOrder := by
  unfold emit
  split <;> rfl
@[simp] theorem emit_floor (c : Chan) (f : Frame) (s : State) : (emit c f s).floor = s.floor := by
  unfold emit
  split <;> rfl
@[simp] theorem emit_monitor (c : Chan) (f : Frame) (s : State) : (emit c f s).monitor = s.monitor := by
  unfold emit
  split <;> rfl
@[simp] theorem emit_out (c : Chan) (f : Frame) (s : State) : (emit c f s).out = s.out := by
  unfold emit
  split <;> rfl
@[simp] theorem emit_pending (c : Chan) (f : Frame) (s : State) : (emit c f s).pending = s.pending := by
  unfold emit
  split <;> rfl

@[simp] theorem sendGrant_resetHeld (c : Chan) (s : State) : (sendGrant c s).resetHeld = s.resetHeld := by simp [sendGrant]
@[simp] theorem sendGrant_partAddress (c : Chan) (s : State) : (sendGrant c s).partAddress = s.partAddress := by simp [sendGrant]
@[simp] theorem sendGrant_shots (c : Chan) (s : State) : (sendGrant c s).shots = s.shots := by simp [sendGrant]
@[simp] theorem sendGrant_channels (c : Chan) (s : State) : (sendGrant c s).channels = s.channels := by simp [sendGrant]
@[simp] theorem sendGrant_poolFree (c : Chan) (s : State) : (sendGrant c s).poolFree = s.poolFree := by simp [sendGrant]
@[simp] theorem sendGrant_parkOrder (c : Chan) (s : State) : (sendGrant c s).parkOrder = s.parkOrder := by simp [sendGrant]
@[simp] theorem sendGrant_floor (c : Chan) (s : State) : (sendGrant c s).floor = s.floor := by simp [sendGrant]
@[simp] theorem sendGrant_monitor (c : Chan) (s : State) : (sendGrant c s).monitor = s.monitor := by simp [sendGrant]
@[simp] theorem sendGrant_out (c : Chan) (s : State) : (sendGrant c s).out = s.out := by simp [sendGrant]
@[simp] theorem sendGrant_pending (c : Chan) (s : State) : (sendGrant c s).pending = s.pending := by simp [sendGrant]

@[simp] theorem sendDeny_resetHeld (c : Chan) (r : Byte) (s : State) : (sendDeny c r s).resetHeld = s.resetHeld := by simp [sendDeny]
@[simp] theorem sendDeny_partAddress (c : Chan) (r : Byte) (s : State) : (sendDeny c r s).partAddress = s.partAddress := by simp [sendDeny]
@[simp] theorem sendDeny_shots (c : Chan) (r : Byte) (s : State) : (sendDeny c r s).shots = s.shots := by simp [sendDeny]
@[simp] theorem sendDeny_channels (c : Chan) (r : Byte) (s : State) : (sendDeny c r s).channels = s.channels := by simp [sendDeny]
@[simp] theorem sendDeny_poolFree (c : Chan) (r : Byte) (s : State) : (sendDeny c r s).poolFree = s.poolFree := by simp [sendDeny]
@[simp] theorem sendDeny_parkOrder (c : Chan) (r : Byte) (s : State) : (sendDeny c r s).parkOrder = s.parkOrder := by simp [sendDeny]
@[simp] theorem sendDeny_floor (c : Chan) (r : Byte) (s : State) : (sendDeny c r s).floor = s.floor := by simp [sendDeny]
@[simp] theorem sendDeny_monitor (c : Chan) (r : Byte) (s : State) : (sendDeny c r s).monitor = s.monitor := by simp [sendDeny]
@[simp] theorem sendDeny_out (c : Chan) (r : Byte) (s : State) : (sendDeny c r s).out = s.out := by simp [sendDeny]
@[simp] theorem sendDeny_pending (c : Chan) (r : Byte) (s : State) : (sendDeny c r s).pending = s.pending := by simp [sendDeny]

/-! ## The pool and the floor -/

@[simp] theorem freeEntry_resetHeld (s : State) : (freeEntry s).resetHeld = s.resetHeld := rfl
@[simp] theorem freeEntry_partAddress (s : State) : (freeEntry s).partAddress = s.partAddress := rfl
@[simp] theorem freeEntry_shots (s : State) : (freeEntry s).shots = s.shots := rfl
@[simp] theorem freeEntry_channels (s : State) : (freeEntry s).channels = s.channels := rfl
@[simp] theorem freeEntry_parkOrder (s : State) : (freeEntry s).parkOrder = s.parkOrder := rfl
@[simp] theorem freeEntry_floor (s : State) : (freeEntry s).floor = s.floor := rfl
@[simp] theorem freeEntry_monitor (s : State) : (freeEntry s).monitor = s.monitor := rfl
@[simp] theorem freeEntry_link (s : State) : (freeEntry s).link = s.link := rfl
@[simp] theorem freeEntry_out (s : State) : (freeEntry s).out = s.out := rfl
@[simp] theorem freeEntry_pending (s : State) : (freeEntry s).pending = s.pending := rfl

@[simp] theorem freeEntry_poolFree (s : State) : (freeEntry s).poolFree = s.poolFree + 1 := rfl

@[simp] theorem freeZones_resetHeld (zs : List Zone) (s : State) : (freeZones zs s).resetHeld = s.resetHeld := rfl
@[simp] theorem freeZones_partAddress (zs : List Zone) (s : State) : (freeZones zs s).partAddress = s.partAddress := rfl
@[simp] theorem freeZones_shots (zs : List Zone) (s : State) : (freeZones zs s).shots = s.shots := rfl
@[simp] theorem freeZones_channels (zs : List Zone) (s : State) : (freeZones zs s).channels = s.channels := rfl
@[simp] theorem freeZones_poolFree (zs : List Zone) (s : State) : (freeZones zs s).poolFree = s.poolFree := rfl
@[simp] theorem freeZones_parkOrder (zs : List Zone) (s : State) : (freeZones zs s).parkOrder = s.parkOrder := rfl
@[simp] theorem freeZones_monitor (zs : List Zone) (s : State) : (freeZones zs s).monitor = s.monitor := rfl
@[simp] theorem freeZones_link (zs : List Zone) (s : State) : (freeZones zs s).link = s.link := rfl
@[simp] theorem freeZones_out (zs : List Zone) (s : State) : (freeZones zs s).out = s.out := rfl
@[simp] theorem freeZones_pending (zs : List Zone) (s : State) : (freeZones zs s).pending = s.pending := rfl

@[simp] theorem dropWaiter_resetHeld (c : Chan) (s : State) : (dropWaiter c s).resetHeld = s.resetHeld := rfl
@[simp] theorem dropWaiter_partAddress (c : Chan) (s : State) : (dropWaiter c s).partAddress = s.partAddress := rfl
@[simp] theorem dropWaiter_shots (c : Chan) (s : State) : (dropWaiter c s).shots = s.shots := rfl
@[simp] theorem dropWaiter_channels (c : Chan) (s : State) : (dropWaiter c s).channels = s.channels := rfl
@[simp] theorem dropWaiter_poolFree (c : Chan) (s : State) : (dropWaiter c s).poolFree = s.poolFree := rfl
@[simp] theorem dropWaiter_parkOrder (c : Chan) (s : State) : (dropWaiter c s).parkOrder = s.parkOrder := rfl
@[simp] theorem dropWaiter_monitor (c : Chan) (s : State) : (dropWaiter c s).monitor = s.monitor := rfl
@[simp] theorem dropWaiter_link (c : Chan) (s : State) : (dropWaiter c s).link = s.link := rfl
@[simp] theorem dropWaiter_out (c : Chan) (s : State) : (dropWaiter c s).out = s.out := rfl
@[simp] theorem dropWaiter_pending (c : Chan) (s : State) : (dropWaiter c s).pending = s.pending := rfl

@[simp] theorem addWaiter_resetHeld (x : Waiter) (s : State) : (addWaiter x s).resetHeld = s.resetHeld := rfl
@[simp] theorem addWaiter_partAddress (x : Waiter) (s : State) : (addWaiter x s).partAddress = s.partAddress := rfl
@[simp] theorem addWaiter_shots (x : Waiter) (s : State) : (addWaiter x s).shots = s.shots := rfl
@[simp] theorem addWaiter_channels (x : Waiter) (s : State) : (addWaiter x s).channels = s.channels := rfl
@[simp] theorem addWaiter_poolFree (x : Waiter) (s : State) : (addWaiter x s).poolFree = s.poolFree := rfl
@[simp] theorem addWaiter_parkOrder (x : Waiter) (s : State) : (addWaiter x s).parkOrder = s.parkOrder := rfl
@[simp] theorem addWaiter_monitor (x : Waiter) (s : State) : (addWaiter x s).monitor = s.monitor := rfl
@[simp] theorem addWaiter_link (x : Waiter) (s : State) : (addWaiter x s).link = s.link := rfl
@[simp] theorem addWaiter_out (x : Waiter) (s : State) : (addWaiter x s).out = s.out := rfl
@[simp] theorem addWaiter_pending (x : Waiter) (s : State) : (addWaiter x s).pending = s.pending := rfl

@[simp] theorem freeZones_waiters (zs : List Zone) (s : State) : (freeZones zs s).floor.waiters = s.floor.waiters := rfl
@[simp] theorem dropWaiter_owners (c : Chan) (s : State) : (dropWaiter c s).floor.owners = s.floor.owners := rfl
@[simp] theorem dropWaiter_waiters (c : Chan) (s : State) :
    (dropWaiter c s).floor.waiters = s.floor.waiters.filter fun w => w.channel != c := rfl
@[simp] theorem addWaiter_owners (x : Waiter) (s : State) : (addWaiter x s).floor.owners = s.floor.owners := rfl
@[simp] theorem addWaiter_waiters (x : Waiter) (s : State) : (addWaiter x s).floor.waiters = s.floor.waiters ++ [x] := rfl

/-! ## Receivers -/

@[simp] theorem setRx_resetHeld (p : Port) (b : List Byte) (s : State) : (setRx p b s).resetHeld = s.resetHeld := by cases p <;> rfl
@[simp] theorem setRx_partAddress (p : Port) (b : List Byte) (s : State) : (setRx p b s).partAddress = s.partAddress := by cases p <;> rfl
@[simp] theorem setRx_shots (p : Port) (b : List Byte) (s : State) : (setRx p b s).shots = s.shots := by cases p <;> rfl
@[simp] theorem setRx_channels (p : Port) (b : List Byte) (s : State) : (setRx p b s).channels = s.channels := by cases p <;> rfl
@[simp] theorem setRx_poolFree (p : Port) (b : List Byte) (s : State) : (setRx p b s).poolFree = s.poolFree := by cases p <;> rfl
@[simp] theorem setRx_parkOrder (p : Port) (b : List Byte) (s : State) : (setRx p b s).parkOrder = s.parkOrder := by cases p <;> rfl
@[simp] theorem setRx_floor (p : Port) (b : List Byte) (s : State) : (setRx p b s).floor = s.floor := by cases p <;> rfl
@[simp] theorem setRx_monitor (p : Port) (b : List Byte) (s : State) : (setRx p b s).monitor = s.monitor := by cases p <;> rfl
@[simp] theorem setRx_out (p : Port) (b : List Byte) (s : State) : (setRx p b s).out = s.out := by cases p <;> rfl
@[simp] theorem setRx_pending (p : Port) (b : List Byte) (s : State) : (setRx p b s).pending = s.pending := by cases p <;> rfl

@[simp] theorem setRx_reached (p : Port) (b : List Byte) (s : State) : (setRx p b s).link.reached = s.link.reached := by cases p <;> rfl
@[simp] theorem arrive_resetHeld (p : Port) (s : State) : (arrive p s).resetHeld = s.resetHeld := by cases p <;> rfl
@[simp] theorem arrive_partAddress (p : Port) (s : State) : (arrive p s).partAddress = s.partAddress := by cases p <;> rfl
@[simp] theorem arrive_shots (p : Port) (s : State) : (arrive p s).shots = s.shots := by cases p <;> rfl
@[simp] theorem arrive_channels (p : Port) (s : State) : (arrive p s).channels = s.channels := by cases p <;> rfl
@[simp] theorem arrive_poolFree (p : Port) (s : State) : (arrive p s).poolFree = s.poolFree := by cases p <;> rfl
@[simp] theorem arrive_parkOrder (p : Port) (s : State) : (arrive p s).parkOrder = s.parkOrder := by cases p <;> rfl
@[simp] theorem arrive_floor (p : Port) (s : State) : (arrive p s).floor = s.floor := by cases p <;> rfl
@[simp] theorem arrive_monitor (p : Port) (s : State) : (arrive p s).monitor = s.monitor := by cases p <;> rfl
@[simp] theorem arrive_out (p : Port) (s : State) : (arrive p s).out = s.out := by cases p <;> rfl
@[simp] theorem arrive_pending (p : Port) (s : State) : (arrive p s).pending = s.pending := by cases p <;> rfl
@[simp] theorem arrive_reached (p : Port) (s : State) : (arrive p s).link.reached = true := by cases p <;> rfl

/-! ## A channel read through an operation that leaves the channels -/

@[simp] theorem reserve_chan (s : State) (c : Chan) : (reserve s).chan c = s.chan c := by simp [State.chan]
@[simp] theorem fillAnswer_chan (k : Byte) (r : Reply) (s : State) (c : Chan) : (fillAnswer k r s).chan c = s.chan c := by simp [State.chan]
@[simp] theorem notice_chan (p : List Byte) (s : State) (c : Chan) : (notice p s).chan c = s.chan c := by simp [State.chan]
@[simp] theorem forwardDown_chan (f : Frame) (s : State) (c : Chan) : (forwardDown f s).chan c = s.chan c := by simp [State.chan]
@[simp] theorem forwardUp_chan (f : Frame) (s : State) (c : Chan) : (forwardUp f s).chan c = s.chan c := by simp [State.chan]
@[simp] theorem pushHead_chan (f : Frame) (s : State) (c : Chan) : (pushHead f s).chan c = s.chan c := by simp [State.chan]
@[simp] theorem sendGrant_chan (d : Chan) (s : State) (c : Chan) : (sendGrant d s).chan c = s.chan c := by simp [State.chan]
@[simp] theorem sendDeny_chan (d : Chan) (r : Byte) (s : State) (c : Chan) : (sendDeny d r s).chan c = s.chan c := by simp [State.chan]
@[simp] theorem emit_chan (d : Chan) (f : Frame) (s : State) (c : Chan) : (emit d f s).chan c = s.chan c := by simp [State.chan]
@[simp] theorem freeEntry_chan (s : State) (c : Chan) : (freeEntry s).chan c = s.chan c := by simp [State.chan]
@[simp] theorem freeZones_chan (zs : List Zone) (s : State) (c : Chan) : (freeZones zs s).chan c = s.chan c := by simp [State.chan]
@[simp] theorem dropWaiter_chan (d : Chan) (s : State) (c : Chan) : (dropWaiter d s).chan c = s.chan c := by simp [State.chan]
@[simp] theorem addWaiter_chan (x : Waiter) (s : State) (c : Chan) : (addWaiter x s).chan c = s.chan c := by simp [State.chan]
@[simp] theorem setRx_chan (p : Port) (b : List Byte) (s : State) (c : Chan) : (setRx p b s).chan c = s.chan c := by simp [State.chan]
@[simp] theorem arrive_chan (p : Port) (s : State) (c : Chan) : (arrive p s).chan c = s.chan c := by simp [State.chan]

theorem admitParked_chan (c d : Chan) (call : ParkedCall) (s : State) : (admitParked c call s).chan d
    = if d = c then { admitCall call (s.chan c) with parked := none } else s.chan d := by
  simp only [admitParked, modChan_chan]
  rfl

theorem displaceParked_chan (c d : Chan) (s : State) : (displaceParked c s).chan d
    = if d = c then { s.chan c with parked := none } else s.chan d := by
  unfold displaceParked
  split
  · next h =>
    split
    · next e => rw [e, ← h]
    · rfl
  · simp only [unstarted, notice_chan]
    exact modChan_chan s c d fun ch => { ch with parked := none }

/-! ## The transitions of a channel -/

@[simp] theorem toPhase_phase (p : Phase) (ch : Channel) : (toPhase p ch).phase = p := rfl
@[simp] theorem intoMotion_phase (p : Phase) (ch : Channel) : (intoMotion p ch).phase = p := rfl

@[simp] theorem applyPending_config (ch : Channel) : (applyPending ch).config = ch.config := rfl
@[simp] theorem applyPending_phase (ch : Channel) : (applyPending ch).phase = ch.phase := rfl
@[simp] theorem applyPending_tally (ch : Channel) : (applyPending ch).tally = ch.tally := rfl
@[simp] theorem applyPending_commanded (ch : Channel) : (applyPending ch).commanded = ch.commanded := rfl
@[simp] theorem applyPending_reported (ch : Channel) : (applyPending ch).reported = ch.reported := rfl
@[simp] theorem applyPending_valid (ch : Channel) : (applyPending ch).valid = ch.valid := rfl
@[simp] theorem applyPending_headStatus (ch : Channel) : (applyPending ch).headStatus = ch.headStatus := rfl
@[simp] theorem applyPending_history (ch : Channel) : (applyPending ch).history = ch.history := rfl
@[simp] theorem applyPending_followErrors (ch : Channel) : (applyPending ch).followErrors = ch.followErrors := rfl
@[simp] theorem applyPending_reportAge (ch : Channel) : (applyPending ch).reportAge = ch.reportAge := rfl
@[simp] theorem applyPending_snapshot (ch : Channel) : (applyPending ch).snapshot = ch.snapshot := rfl
@[simp] theorem applyPending_manualPending (ch : Channel) : (applyPending ch).manualPending = ch.manualPending := rfl
@[simp] theorem applyPending_last (ch : Channel) : (applyPending ch).last = ch.last := rfl
@[simp] theorem applyPending_queue (ch : Channel) : (applyPending ch).queue = ch.queue := rfl
@[simp] theorem applyPending_nextRank (ch : Channel) : (applyPending ch).nextRank = ch.nextRank := rfl
@[simp] theorem applyPending_parked (ch : Channel) : (applyPending ch).parked = ch.parked := rfl
@[simp] theorem applyPending_fieldDue (ch : Channel) : (applyPending ch).fieldDue = ch.fieldDue := rfl
@[simp] theorem toPhase_config (p : Phase) (ch : Channel) : (toPhase p ch).config = ch.config := by
  simp only [toPhase]
  split <;> rfl
@[simp] theorem toPhase_tally (p : Phase) (ch : Channel) : (toPhase p ch).tally = ch.tally := by
  simp only [toPhase]
  split <;> rfl
@[simp] theorem toPhase_commanded (p : Phase) (ch : Channel) : (toPhase p ch).commanded = ch.commanded := by
  simp only [toPhase]
  split <;> rfl
@[simp] theorem toPhase_reported (p : Phase) (ch : Channel) : (toPhase p ch).reported = ch.reported := by
  simp only [toPhase]
  split <;> rfl
@[simp] theorem toPhase_valid (p : Phase) (ch : Channel) : (toPhase p ch).valid = ch.valid := by
  simp only [toPhase]
  split <;> rfl
@[simp] theorem toPhase_headStatus (p : Phase) (ch : Channel) : (toPhase p ch).headStatus = ch.headStatus := by
  simp only [toPhase]
  split <;> rfl
@[simp] theorem toPhase_history (p : Phase) (ch : Channel) : (toPhase p ch).history = ch.history := by
  simp only [toPhase]
  split <;> rfl
@[simp] theorem toPhase_followErrors (p : Phase) (ch : Channel) : (toPhase p ch).followErrors = ch.followErrors := by
  simp only [toPhase]
  split <;> rfl
@[simp] theorem toPhase_reportAge (p : Phase) (ch : Channel) : (toPhase p ch).reportAge = ch.reportAge := by
  simp only [toPhase]
  split <;> rfl
@[simp] theorem toPhase_snapshot (p : Phase) (ch : Channel) : (toPhase p ch).snapshot = ch.snapshot := by
  simp only [toPhase]
  split <;> rfl
@[simp] theorem toPhase_manualPending (p : Phase) (ch : Channel) : (toPhase p ch).manualPending = ch.manualPending := by
  simp only [toPhase]
  split <;> rfl
@[simp] theorem toPhase_last (p : Phase) (ch : Channel) : (toPhase p ch).last = ch.last := by
  simp only [toPhase]
  split <;> rfl
@[simp] theorem toPhase_queue (p : Phase) (ch : Channel) : (toPhase p ch).queue = ch.queue := by
  simp only [toPhase]
  split <;> rfl
@[simp] theorem toPhase_nextRank (p : Phase) (ch : Channel) : (toPhase p ch).nextRank = ch.nextRank := by
  simp only [toPhase]
  split <;> rfl
@[simp] theorem toPhase_parked (p : Phase) (ch : Channel) : (toPhase p ch).parked = ch.parked := by
  simp only [toPhase]
  split <;> rfl
@[simp] theorem toPhase_fieldDue (p : Phase) (ch : Channel) : (toPhase p ch).fieldDue = ch.fieldDue := by
  simp only [toPhase]
  split <;> rfl
@[simp] theorem intoMotion_config (p : Phase) (ch : Channel) : (intoMotion p ch).config = ch.config := rfl
@[simp] theorem intoMotion_tally (p : Phase) (ch : Channel) : (intoMotion p ch).tally = ch.tally := rfl
@[simp] theorem intoMotion_commanded (p : Phase) (ch : Channel) : (intoMotion p ch).commanded = ch.commanded := rfl
@[simp] theorem intoMotion_reported (p : Phase) (ch : Channel) : (intoMotion p ch).reported = ch.reported := rfl
@[simp] theorem intoMotion_valid (p : Phase) (ch : Channel) : (intoMotion p ch).valid = ch.valid := rfl
@[simp] theorem intoMotion_headStatus (p : Phase) (ch : Channel) : (intoMotion p ch).headStatus = ch.headStatus := rfl
@[simp] theorem intoMotion_history (p : Phase) (ch : Channel) : (intoMotion p ch).history = ch.history := rfl
@[simp] theorem intoMotion_reportAge (p : Phase) (ch : Channel) : (intoMotion p ch).reportAge = ch.reportAge := rfl
@[simp] theorem intoMotion_snapshot (p : Phase) (ch : Channel) : (intoMotion p ch).snapshot = ch.snapshot := rfl
@[simp] theorem intoMotion_manualPending (p : Phase) (ch : Channel) : (intoMotion p ch).manualPending = ch.manualPending := rfl
@[simp] theorem intoMotion_last (p : Phase) (ch : Channel) : (intoMotion p ch).last = ch.last := rfl
@[simp] theorem intoMotion_limits (p : Phase) (ch : Channel) : (intoMotion p ch).limits = ch.limits := rfl
@[simp] theorem intoMotion_pendingLimits (p : Phase) (ch : Channel) : (intoMotion p ch).pendingLimits = ch.pendingLimits := rfl
@[simp] theorem intoMotion_queue (p : Phase) (ch : Channel) : (intoMotion p ch).queue = ch.queue := rfl
@[simp] theorem intoMotion_nextRank (p : Phase) (ch : Channel) : (intoMotion p ch).nextRank = ch.nextRank := rfl
@[simp] theorem intoMotion_parked (p : Phase) (ch : Channel) : (intoMotion p ch).parked = ch.parked := rfl
@[simp] theorem intoMotion_fieldDue (p : Phase) (ch : Channel) : (intoMotion p ch).fieldDue = ch.fieldDue := rfl
@[simp] theorem takeReported_config (ch : Channel) : (takeReported ch).config = ch.config := rfl
@[simp] theorem takeReported_phase (ch : Channel) : (takeReported ch).phase = ch.phase := rfl
@[simp] theorem takeReported_tally (ch : Channel) : (takeReported ch).tally = ch.tally := rfl
@[simp] theorem takeReported_reported (ch : Channel) : (takeReported ch).reported = ch.reported := rfl
@[simp] theorem takeReported_valid (ch : Channel) : (takeReported ch).valid = ch.valid := rfl
@[simp] theorem takeReported_headStatus (ch : Channel) : (takeReported ch).headStatus = ch.headStatus := rfl
@[simp] theorem takeReported_followErrors (ch : Channel) : (takeReported ch).followErrors = ch.followErrors := rfl
@[simp] theorem takeReported_reportAge (ch : Channel) : (takeReported ch).reportAge = ch.reportAge := rfl
@[simp] theorem takeReported_snapshot (ch : Channel) : (takeReported ch).snapshot = ch.snapshot := rfl
@[simp] theorem takeReported_manualPending (ch : Channel) : (takeReported ch).manualPending = ch.manualPending := rfl
@[simp] theorem takeReported_last (ch : Channel) : (takeReported ch).last = ch.last := rfl
@[simp] theorem takeReported_limits (ch : Channel) : (takeReported ch).limits = ch.limits := rfl
@[simp] theorem takeReported_pendingLimits (ch : Channel) : (takeReported ch).pendingLimits = ch.pendingLimits := rfl
@[simp] theorem takeReported_queue (ch : Channel) : (takeReported ch).queue = ch.queue := rfl
@[simp] theorem takeReported_nextRank (ch : Channel) : (takeReported ch).nextRank = ch.nextRank := rfl
@[simp] theorem takeReported_parked (ch : Channel) : (takeReported ch).parked = ch.parked := rfl
@[simp] theorem takeReported_fieldDue (ch : Channel) : (takeReported ch).fieldDue = ch.fieldDue := rfl
@[simp] theorem admitCall_config (call : ParkedCall) (ch : Channel) : (admitCall call ch).config = ch.config := rfl
@[simp] theorem admitCall_phase (call : ParkedCall) (ch : Channel) : (admitCall call ch).phase = ch.phase := rfl
@[simp] theorem admitCall_tally (call : ParkedCall) (ch : Channel) : (admitCall call ch).tally = ch.tally := rfl
@[simp] theorem admitCall_commanded (call : ParkedCall) (ch : Channel) : (admitCall call ch).commanded = ch.commanded := rfl
@[simp] theorem admitCall_reported (call : ParkedCall) (ch : Channel) : (admitCall call ch).reported = ch.reported := rfl
@[simp] theorem admitCall_valid (call : ParkedCall) (ch : Channel) : (admitCall call ch).valid = ch.valid := rfl
@[simp] theorem admitCall_headStatus (call : ParkedCall) (ch : Channel) : (admitCall call ch).headStatus = ch.headStatus := rfl
@[simp] theorem admitCall_history (call : ParkedCall) (ch : Channel) : (admitCall call ch).history = ch.history := rfl
@[simp] theorem admitCall_followErrors (call : ParkedCall) (ch : Channel) : (admitCall call ch).followErrors = ch.followErrors := rfl
@[simp] theorem admitCall_reportAge (call : ParkedCall) (ch : Channel) : (admitCall call ch).reportAge = ch.reportAge := rfl
@[simp] theorem admitCall_snapshot (call : ParkedCall) (ch : Channel) : (admitCall call ch).snapshot = ch.snapshot := rfl
@[simp] theorem admitCall_manualPending (call : ParkedCall) (ch : Channel) : (admitCall call ch).manualPending = ch.manualPending := rfl
@[simp] theorem admitCall_last (call : ParkedCall) (ch : Channel) : (admitCall call ch).last = ch.last := rfl
@[simp] theorem admitCall_limits (call : ParkedCall) (ch : Channel) : (admitCall call ch).limits = ch.limits := rfl
@[simp] theorem admitCall_pendingLimits (call : ParkedCall) (ch : Channel) : (admitCall call ch).pendingLimits = ch.pendingLimits := rfl
@[simp] theorem admitCall_parked (call : ParkedCall) (ch : Channel) : (admitCall call ch).parked = ch.parked := rfl
@[simp] theorem admitCall_fieldDue (call : ParkedCall) (ch : Channel) : (admitCall call ch).fieldDue = ch.fieldDue := rfl

/-- A transition within the motion set, or from outside it, keeps the limit records (R26). -/
theorem toPhase_keeps_limits {p : Phase} {ch : Channel} (h : inMotion ch.phase = false ∨ inMotion p = true) :
    toPhase p ch = { ch with phase := p } := by
  rcases h with h | h <;> simp [toPhase, h]

/-- A transition out of the motion set applies every pending record (R26). -/
theorem toPhase_leaves_motion {p : Phase} {ch : Channel} (h : inMotion ch.phase = true) (hp : inMotion p = false) :
    toPhase p ch = { applyPending ch with phase := p } := by simp [toPhase, h, hp]

end Sys2Proof.Machine
end

