-- ==== Sys2Proof/Laws/Keeps.lean ====
section
/-! SUPPORT. What the work of the channels, of the Cue Manager and of the Zone Arbiter keeps: Keeps says it once, and each
shared operation has one lemma. -/

namespace Sys2Proof.Machine

/-- A property of limit records that holds of every effective and every pending record of a channel. -/
abbrev AllLimits (P : Limits → Prop) (x : Channel) : Prop :=
  ∀ a, P (x.limits.get a) ∧ ∀ l, x.pendingLimits.get a = some l → P l

/-- What work at channels leaves as it was, and the invariants it keeps: the shot directory, the Reference Monitor, the
receivers, the lines, the forward queues, the reserved places, the queue of commands and whether a frame has reached the
part are unchanged; the Outbound Queue and the head control list stay within their capacities; configuration records are unchanged; every
property of limit records that the live-rate clamp keeps is kept; counts stay in range. -/
structure Keeps (s t : State) : Prop where
  resetHeld : t.resetHeld = s.resetHeld
  partAddress : t.partAddress = s.partAddress
  shots : t.shots = s.shots
  monitor : t.monitor = s.monitor
  pending : t.pending = s.pending
  reserved : t.out.reserved = s.out.reserved
  outbound : OutboundOk s → OutboundOk t
  controlRx : t.link.controlRx = s.link.controlRx
  headRx : t.link.headRx = s.link.headRx
  downstream : t.link.downstream = s.link.downstream
  upstream : t.link.upstream = s.link.upstream
  headLine : t.link.headLine = s.link.headLine
  controlLine : t.link.controlLine = s.link.controlLine
  controlSecond : t.link.controlSecond = s.link.controlSecond
  reached : t.link.reached = s.link.reached
  headControl : s.link.headControl.length ≤ Config.headControlCapacity →
    t.link.headControl.length ≤ Config.headControlCapacity
  config : ∀ c, (t.chan c).config = (s.chan c).config
  limits : ∀ P : Limits → Prop, (∀ l, P l → P (clampLive l)) → (∀ c, AllLimits P (s.chan c)) → ∀ c, AllLimits P (t.chan c)
  counts : CountsOk s → CountsOk t
  pendingLimits : PendingOk s → PendingOk t

theorem Keeps_refl (s : State) : Keeps s s := by constructor <;> first | intros; rfl | exact id | exact fun _ _ => id

theorem Keeps_trans {s t u : State} (h : Keeps s t) (k : Keeps t u) : Keeps s u where
  resetHeld := k.resetHeld.trans h.resetHeld
  partAddress := k.partAddress.trans h.partAddress
  shots := k.shots.trans h.shots
  monitor := k.monitor.trans h.monitor
  pending := k.pending.trans h.pending
  reserved := k.reserved.trans h.reserved
  outbound := k.outbound ∘ h.outbound
  controlRx := k.controlRx.trans h.controlRx
  headRx := k.headRx.trans h.headRx
  downstream := k.downstream.trans h.downstream
  upstream := k.upstream.trans h.upstream
  headLine := k.headLine.trans h.headLine
  controlLine := k.controlLine.trans h.controlLine
  controlSecond := k.controlSecond.trans h.controlSecond
  reached := k.reached.trans h.reached
  headControl := k.headControl ∘ h.headControl
  config := fun c => (k.config c).trans (h.config c)
  limits := fun P hP => k.limits P hP ∘ h.limits P hP
  counts := k.counts ∘ h.counts
  pendingLimits := k.pendingLimits ∘ h.pendingLimits

/-- Whatever leaves everything but the channels' other parts, the pool, the Park Order and the floor. -/
theorem Keeps_of_fields {s t : State} (h1 : t.resetHeld = s.resetHeld) (h2 : t.partAddress = s.partAddress)
    (h3 : t.shots = s.shots) (h4 : t.monitor = s.monitor) (h5 : t.pending = s.pending) (h6 : t.out = s.out)
    (h7 : t.link = s.link) (h8 : t.channels = s.channels) : Keeps s t where
  resetHeld := h1
  partAddress := h2
  shots := h3
  monitor := h4
  pending := h5
  reserved := by rw [h6]
  outbound := by simp [OutboundOk, h6]
  controlRx := by rw [h7]
  headRx := by rw [h7]
  downstream := by rw [h7]
  upstream := by rw [h7]
  headLine := by rw [h7]
  controlLine := by rw [h7]
  controlSecond := by rw [h7]
  reached := by rw [h7]
  headControl := by simp [h7]
  config := by simp [State.chan, h8]
  limits := fun P _ k => by simpa only [State.chan, h8] using k
  counts := by simp [CountsOk, State.chan, h8]
  pendingLimits := by simp [PendingOk, State.chan, h8]

/-! ## Channels -/

/-- What a change of one channel must keep. -/
structure ChanKeeps (x y : Channel) : Prop where
  config : y.config = x.config
  limits : ∀ P : Limits → Prop, (∀ l, P l → P (clampLive l)) → AllLimits P x → AllLimits P y
  counts : (x.reportAge ≤ Config.maxReportAge ∧ ∀ a, x.followErrors.get a ≤ Config.followErrorLimit) →
    (y.reportAge ≤ Config.maxReportAge ∧ ∀ a, y.followErrors.get a ≤ Config.followErrorLimit)
  pendingLimits : (inMotion x.phase = false → x.pendingLimits = .all none) →
    inMotion y.phase = false → y.pendingLimits = .all none

theorem ChanKeeps_refl (x : Channel) : ChanKeeps x x := ⟨rfl, fun _ _ => id, id, id⟩

theorem ChanKeeps_trans {x y z : Channel} (h : ChanKeeps x y) (k : ChanKeeps y z) : ChanKeeps x z :=
  ⟨k.config.trans h.config, fun P hP => k.limits P hP ∘ h.limits P hP, k.counts ∘ h.counts, k.pendingLimits ∘ h.pendingLimits⟩

/-- A change of a channel that leaves its configuration, its limits and its counts, and its place in the motion set or
outside it. -/
theorem ChanKeeps_of_fields {x y : Channel} (h1 : y.config = x.config) (h2 : y.limits = x.limits)
    (h3 : y.pendingLimits = x.pendingLimits) (h4 : y.reportAge = x.reportAge) (h5 : y.followErrors = x.followErrors)
    (h6 : inMotion y.phase = false → inMotion x.phase = false) : ChanKeeps x y where
  config := h1
  limits := fun P _ => by rw [AllLimits, AllLimits, h2, h3]; exact id
  counts := by rw [h4, h5]; exact id
  pendingLimits := fun h k => by rw [h3]; exact h (h6 k)

/-- The same for a change that leaves the state. -/
theorem ChanKeeps_same {x y : Channel} (h1 : y.config = x.config) (h2 : y.limits = x.limits)
    (h3 : y.pendingLimits = x.pendingLimits) (h4 : y.reportAge = x.reportAge) (h5 : y.followErrors = x.followErrors)
    (h6 : y.phase = x.phase) : ChanKeeps x y := ChanKeeps_of_fields h1 h2 h3 h4 h5 (by rw [h6]; exact id)

/-- The same for a change to a state of the motion set. -/
theorem ChanKeeps_motion {x y : Channel} (h1 : y.config = x.config) (h2 : y.limits = x.limits)
    (h3 : y.pendingLimits = x.pendingLimits) (h4 : y.reportAge = x.reportAge) (h5 : y.followErrors = x.followErrors)
    (h6 : inMotion y.phase = true) : ChanKeeps x y :=
  ChanKeeps_of_fields h1 h2 h3 h4 h5 (by rw [h6]; intro h; cases h)

theorem Keeps_modChan {s : State} {c : Chan} {f : Channel → Channel} (h : ChanKeeps (s.chan c) (f (s.chan c))) :
    Keeps s (s.modChan c f) where
  resetHeld := rfl
  partAddress := rfl
  shots := rfl
  monitor := rfl
  pending := rfl
  reserved := rfl
  outbound := id
  controlRx := rfl
  headRx := rfl
  downstream := rfl
  upstream := rfl
  headLine := rfl
  controlLine := rfl
  controlSecond := rfl
  reached := rfl
  headControl := id
  config := fun d => by
    rw [modChan_chan]
    split
    · next e => rw [e]; exact h.config
    · rfl
  limits := fun P hP k d => by
    rw [modChan_chan]
    split
    · exact h.limits P hP (k c)
    · exact k d
  counts := fun k d => by
    rw [modChan_chan]
    split
    · exact h.counts (k c)
    · exact k d
  pendingLimits := fun k d => by
    rw [modChan_chan]
    split
    · exact h.pendingLimits (k c)
    · exact k d

/-- The live-rate clamp keeps the live-rate rule (R22). -/
theorem clampLive_ok (l : Limits) : LiveRatesOk (clampLive l) := ⟨Nat.min_le_right _ _, Nat.min_le_right _ _⟩

/-- The live-rate clamp keeps a record within its ranges (R22, R23). -/
theorem clampLive_range {l : Limits} (h : LimitRangeOk l) : LimitRangeOk (clampLive l) := by
  simp only [LimitRangeOk, clampLive] at h ⊢
  omega

/-- What keeps, keeps the live-rate rule (R22). -/
theorem Keeps_liveRates {s t : State} (h : Keeps s t) : LimitsOk s → LimitsOk t :=
  h.limits _ fun l _ => clampLive_ok l

/-- What keeps, keeps every limit record within its ranges (R20, R23). -/
theorem Keeps_limitRanges {s t : State} (h : Keeps s t) :
    (∀ c, AllLimits LimitRangeOk (s.chan c)) → ∀ c, AllLimits LimitRangeOk (t.chan c) :=
  h.limits _ fun _ => clampLive_range

theorem applyPending_keeps (x : Channel) : ChanKeeps x (applyPending x) where
  config := rfl
  limits := fun P hP h a => by
    refine ⟨?_, ?_⟩
    · simp only [applyPending, PerAxis_get_ofFn]
      split
      · next l e => exact hP l ((h a).2 l e)
      · exact (h a).1
    · simp [applyPending]
  counts := id
  pendingLimits := fun _ _ => rfl

theorem toPhase_keeps (p : Phase) (x : Channel) : ChanKeeps x (toPhase p x) := by
  unfold toPhase
  split
  · exact ⟨rfl, (applyPending_keeps x).limits, id, fun _ _ => rfl⟩
  · next e =>
    refine ⟨rfl, fun _ _ => id, id, fun h k => h ?_⟩
    cases hx : inMotion x.phase
    · rfl
    · simp_all

theorem intoMotion_keeps {p : Phase} (hp : inMotion p = true) (x : Channel) : ChanKeeps x (intoMotion p x) :=
  ⟨rfl, fun _ _ => id, fun h => ⟨h.1, fun a => by simp [intoMotion, Config.followErrorLimit]⟩, fun _ k => by
    rw [intoMotion_phase, hp] at k; cases k⟩

theorem takeReported_keeps (x : Channel) : ChanKeeps x (takeReported x) := ChanKeeps_same rfl rfl rfl rfl rfl rfl

theorem Keeps_toPhase (s : State) (c : Chan) (p : Phase) : Keeps s (s.modChan c (toPhase p)) :=
  Keeps_modChan (toPhase_keeps p _)

theorem takeReportedIf_keeps (x : Channel) : ChanKeeps x (if x.valid then takeReported x else x) := by
  split
  · exact takeReported_keeps _
  · exact ChanKeeps_refl _

/-! ## Queues -/

theorem notice_keeps (p : List Byte) (s : State) : Keeps s (notice p s) where
  resetHeld := by simp
  partAddress := by simp
  shots := by simp
  monitor := by simp
  pending := by simp
  reserved := by unfold notice; split <;> rfl
  outbound := fun h => by
    unfold notice
    split
    · exact h
    · next e =>
      simp only [OutboundOk, State.outFree, List.length_append, List.length_singleton, Config.outboundCapacity] at *
      omega
  controlRx := by simp
  headRx := by simp
  downstream := by simp
  upstream := by simp
  headLine := by simp
  controlLine := by simp
  controlSecond := by simp
  reached := by simp
  headControl := by simp
  config := by simp
  limits := fun _ _ k => by simpa using k
  counts := by simp [CountsOk]
  pendingLimits := by simp [PendingOk]

theorem pushHead_keeps (f : Frame) (s : State) : Keeps s (pushHead f s) where
  resetHeld := by simp
  partAddress := by simp
  shots := by simp
  monitor := by simp
  pending := by simp
  reserved := by simp
  outbound := by simp [OutboundOk]
  controlRx := by unfold pushHead; split <;> rfl
  headRx := by unfold pushHead; split <;> rfl
  downstream := by unfold pushHead; split <;> rfl
  upstream := by unfold pushHead; split <;> rfl
  headLine := by unfold pushHead; split <;> rfl
  controlLine := by unfold pushHead; split <;> rfl
  controlSecond := by unfold pushHead; split <;> rfl
  reached := by unfold pushHead; split <;> rfl
  headControl := fun h => by
    unfold pushHead
    split
    · simp only [List.length_append, List.length_singleton]; omega
    · exact h
  config := by simp
  limits := fun _ _ k => by simpa using k
  counts := by simp [CountsOk]
  pendingLimits := by simp [PendingOk]

theorem emit_keeps (c : Chan) (f : Frame) (s : State) : Keeps s (emit c f s) where
  resetHeld := by simp
  partAddress := by simp
  shots := by simp
  monitor := by simp
  pending := by simp
  reserved := by simp
  outbound := by simp [OutboundOk]
  controlRx := by unfold emit; split <;> rfl
  headRx := by unfold emit; split <;> rfl
  downstream := by unfold emit; split <;> rfl
  upstream := by unfold emit; split <;> rfl
  headLine := by unfold emit; split <;> rfl
  controlLine := by unfold emit; split <;> rfl
  controlSecond := by unfold emit; split <;> rfl
  reached := by unfold emit; split <;> rfl
  headControl := by unfold emit; split <;> exact id
  config := by simp
  limits := fun _ _ k => by simpa using k
  counts := by simp [CountsOk]
  pendingLimits := by simp [PendingOk]

theorem freeEntry_keeps (s : State) : Keeps s (freeEntry s) := Keeps_of_fields rfl rfl rfl rfl rfl rfl rfl rfl

theorem admitCall_keeps (call : ParkedCall) (x : Channel) : ChanKeeps x { admitCall call x with parked := none } :=
  ChanKeeps_same rfl rfl rfl rfl rfl rfl

theorem admitParked_keeps (c : Chan) (call : ParkedCall) (s : State) : Keeps s (admitParked c call s) := by
  unfold admitParked
  exact Keeps_trans (t := { s with parkOrder := s.parkOrder.erase c })
    (Keeps_of_fields rfl rfl rfl rfl rfl rfl rfl rfl) (Keeps_modChan (admitCall_keeps call _))

theorem releaseEntry_keeps (d : Option Chan) (s : State) : Keeps s (releaseEntry d s) := by
  unfold releaseEntry
  split
  · split
    · exact admitParked_keeps _ _ _
    · exact freeEntry_keeps s
  · exact freeEntry_keeps s

theorem unstarted_keeps (c : Chan) (n : Nat) (tag : BitVec 16) (o : MoveOutcome) (s : State) :
    Keeps s (unstarted c n tag o s) := notice_keeps _ s

/-- A fold of operations that keep, keeps. -/
theorem foldl_keeps {α : Type} (f : State → α → State) (h : ∀ s x, Keeps s (f s x)) (xs : List α) :
    ∀ s, Keeps s (xs.foldl f s) := by
  induction xs with
  | nil => exact Keeps_refl
  | cons x xs ih => exact fun s => Keeps_trans (h s x) (ih _)

theorem flushQueue_keeps (c : Chan) (s : State) : Keeps s (flushQueue c s) := by
  refine Keeps_trans (Keeps_modChan (ChanKeeps_same rfl rfl rfl rfl rfl rfl)) (foldl_keeps _ (fun t q => ?_) _ _)
  exact Keeps_trans (unstarted_keeps _ _ _ _ _) (releaseEntry_keeps _ _)

theorem displaceParked_keeps (c : Chan) (s : State) : Keeps s (displaceParked c s) := by
  unfold displaceParked
  split
  · exact Keeps_refl s
  · refine Keeps_trans ?_ (unstarted_keeps _ _ _ _ _)
    refine Keeps_trans (t := s.modChan c fun ch => { ch with parked := none })
      (Keeps_modChan (ChanKeeps_same rfl rfl rfl rfl rfl rfl)) ?_
    exact Keeps_of_fields rfl rfl rfl rfl rfl rfl rfl rfl

/-! ## The floor and the end of a move -/

theorem freeZones_keeps (zs : List Zone) (s : State) : Keeps s (freeZones zs s) :=
  Keeps_of_fields rfl rfl rfl rfl rfl rfl rfl rfl

theorem dropWaiter_keeps (c : Chan) (s : State) : Keeps s (dropWaiter c s) :=
  Keeps_of_fields rfl rfl rfl rfl rfl rfl rfl rfl

theorem addWaiter_keeps (w : Waiter) (s : State) : Keeps s (addWaiter w s) :=
  Keeps_of_fields rfl rfl rfl rfl rfl rfl rfl rfl

theorem setFloor_keeps (f : Floor) (s : State) : Keeps s { s with floor := f } :=
  Keeps_of_fields rfl rfl rfl rfl rfl rfl rfl rfl

theorem Keeps_id (s : State) : Keeps s (id s) := Keeps_refl s

section
variable {walk : State → State} (hw : ∀ s, Keeps s (walk s))
include hw

theorem settleFloor_keeps (c : Chan) (keep : Option (List Zone)) (s : State) : Keeps s (settleFloor walk c keep s) := by
  unfold settleFloor
  split
  · exact Keeps_refl s
  · split
    · exact Keeps_refl s
    · exact Keeps_trans (freeZones_keeps _ _) (hw _)

theorem enterManualWait_keeps (c : Chan) (r : RestState) (s : State) : Keeps s (enterManualWait walk c r s) := by
  refine Keeps_trans (Keeps_modChan ?_) (Keeps_trans (addWaiter_keeps _ _) (hw _))
  exact ChanKeeps_trans (toPhase_keeps _ _) (ChanKeeps_same rfl rfl rfl rfl rfl rfl)

theorem enterRest_keeps (c : Chan) (r : RestState) (s : State) : Keeps s (enterRest walk c r s) := by
  simp only [enterRest]
  split
  · exact Keeps_trans (Keeps_toPhase s c _) (enterManualWait_keeps hw _ _ _)
  · exact Keeps_toPhase s c _

theorem moveEnd_keeps (c : Chan) (e : MoveEnd) (x : MoveExit) (s : State) : Keeps s (moveEnd walk c e x s) := by
  have h : Keeps s (settleFloor walk c e.keep (releaseEntry none
      ((notice (moveEndBytes c e.cue.shot e.cue.tag e) s).modChan c
        fun ch => { ch with last := some (e.cue.shot, e.outcome) }))) :=
    Keeps_trans (notice_keeps _ _) (Keeps_trans (Keeps_modChan (ChanKeeps_same rfl rfl rfl rfl rfl rfl))
      (Keeps_trans (releaseEntry_keeps _ _) (settleFloor_keeps hw _ _ _)))
  cases x with
  | rest r => exact Keeps_trans h (enterRest_keeps hw _ _ _)
  | fault => exact Keeps_trans h (Keeps_toPhase _ _ _)

theorem takeGrant_keeps (s : State) (w : Waiter) : Keeps s (takeGrant walk s w) := by
  unfold takeGrant
  split
  · split
    · exact moveEnd_keeps hw _ _ _ _
    · exact Keeps_toPhase _ _ _
  · exact Keeps_trans (pushHead_keeps _ _) (Keeps_trans (notice_keeps _ _) (Keeps_toPhase _ _ _))
  · exact Keeps_refl s

theorem withdrawMove_keeps (c : Chan) (m : Move) (o : MoveOutcome) (x : MoveExit) (s : State) :
    Keeps s (withdrawMove walk c m o x s) :=
  Keeps_trans (dropWaiter_keeps _ _) (Keeps_trans (moveEnd_keeps hw _ _ _ _) (hw _))

theorem enterStopping_keeps (c : Chan) (m : Move) (k : StopCause) (p : RestState) (s : State) :
    Keeps s (enterStopping walk c m k p s) := by
  simp only [enterStopping]
  split
  · exact moveEnd_keeps hw _ _ _ _
  · exact Keeps_modChan (ChanKeeps_motion rfl rfl rfl rfl rfl rfl)

theorem haltChannel_keeps (c : Chan) (s : State) : Keeps s (haltChannel walk c s) := by
  unfold haltChannel
  split
  · exact enterRest_keeps hw _ _ _
  · exact withdrawMove_keeps hw _ _ _ _ _
  · exact enterStopping_keeps hw _ _ _ _ _
  all_goals first
    | exact Keeps_refl s
    | exact Keeps_modChan (ChanKeeps_motion rfl rfl rfl rfl rfl rfl)
    | next h => exact Keeps_modChan (ChanKeeps_of_fields rfl rfl rfl rfl rfl fun _ => by rw [h]; rfl)

end

theorem walkN_keeps (n : Nat) : ∀ s, Keeps s (walkN n s) := by
  induction n with
  | zero => exact Keeps_refl
  | succ n ih =>
    intro s
    exact Keeps_trans (setFloor_keeps _ s) (foldl_keeps _ (fun t w => takeGrant_keeps ih t w) _ _)

theorem walk_keeps (s : State) : Keeps s (walk s) := walkN_keeps _ s

theorem endForFault_keeps (c : Chan) (s : State) : Keeps s (endForFault c s) := by
  unfold endForFault
  split
  · exact withdrawMove_keeps walk_keeps _ _ _ _ _
  · exact moveEnd_keeps walk_keeps _ _ _ _
  · exact moveEnd_keeps walk_keeps _ _ _ _
  · exact moveEnd_keeps walk_keeps _ _ _ _
  · exact Keeps_trans (dropWaiter_keeps _ _) (Keeps_trans (walk_keeps _)
      (Keeps_trans (pushHead_keeps _ _) (Keeps_toPhase _ _ _)))
  · exact Keeps_toPhase _ _ _

theorem enterFault_keeps (c : Chan) (r : FaultReason) (s : State) : Keeps s (enterFault c r s) := by
  have h1 := endForFault_keeps c s
  have h2 : ∀ t : State, Keeps t (if (t.chan c).manualPending then
      sendDeny c 2 (t.modChan c fun ch => { ch with manualPending := false }) else t) := by
    intro t
    split
    · exact Keeps_trans (Keeps_modChan (ChanKeeps_same rfl rfl rfl rfl rfl rfl)) (pushHead_keeps _ _)
    · exact Keeps_refl t
  exact Keeps_trans h1 (Keeps_trans (h2 _) (Keeps_trans (Keeps_modChan (takeReportedIf_keeps _)) (notice_keeps _ _)))

/-! ## Cues -/

theorem takeEntry_keeps (c : Chan) (call : ParkedCall) (s : State) : Keeps s (takeEntry c call s) :=
  Keeps_trans (t := { s with poolFree := s.poolFree - 1 }) (Keeps_of_fields rfl rfl rfl rfl rfl rfl rfl rfl)
    (Keeps_modChan (ChanKeeps_same rfl rfl rfl rfl rfl rfl))

theorem parkCall_keeps (c : Chan) (call : ParkedCall) (s : State) : Keeps s (parkCall c call s) :=
  Keeps_trans (t := s.modChan c fun ch => { ch with parked := some call })
    (Keeps_modChan (ChanKeeps_same rfl rfl rfl rfl rfl rfl)) (Keeps_of_fields rfl rfl rfl rfl rfl rfl rfl rfl)

theorem takeOrPark_keeps (c : Chan) (call : ParkedCall) (s : State) : Keeps s (takeOrPark c call s).1 := by
  unfold takeOrPark
  split
  · exact parkCall_keeps _ _ _
  · exact takeEntry_keeps _ _ _

theorem admitQueueNext_keeps (c : Chan) (call : ParkedCall) (s : State) : Keeps s (admitQueueNext c call s).1 := by
  unfold admitQueueNext
  split
  · simp only [replaceParked]
    exact Keeps_trans (unstarted_keeps _ _ _ _ _) (Keeps_modChan (ChanKeeps_same rfl rfl rfl rfl rfl rfl))
  · exact takeOrPark_keeps _ _ _

theorem cutMove_keeps (c : Chan) (s : State) : Keeps s (cutMove c s) := by
  unfold cutMove
  split
  · exact enterStopping_keeps walk_keeps _ _ _ _ _
  · exact withdrawMove_keeps walk_keeps _ _ _ _ _
  · exact Keeps_refl s

theorem admitCut_keeps (c : Chan) (call : ParkedCall) (s : State) : Keeps s (admitCut c call s).1 :=
  Keeps_trans (displaceParked_keeps _ _) (Keeps_trans (flushQueue_keeps _ _)
    (Keeps_trans (takeOrPark_keeps _ _ _) (cutMove_keeps _ _)))

theorem callBody_keeps (c : Chan) (p : List Byte) (s : State) : Keeps s (callBody c p s).1 := by
  unfold callBody
  split
  · exact Keeps_refl s
  · split
    · exact Keeps_refl s
    · dsimp only
      split
      · exact admitCut_keeps _ _ _
      · exact admitQueueNext_keeps _ _ _

theorem flushBody_keeps (c : Chan) (s : State) : Keeps s (flushBody c s).1 :=
  Keeps_trans (flushQueue_keeps _ _) (displaceParked_keeps _ _)

/-! ## Camera commands and the frames of a head -/

theorem haltAll_keeps (s : State) : Keeps s (haltAll s) := by
  refine Keeps_trans (foldl_keeps _ (fun t c => ?_) _ _) (walk_keeps _)
  split
  · exact haltChannel_keeps Keeps_id _ _
  · exact Keeps_refl t

theorem resumeBody_keeps (c : Chan) (s : State) : Keeps s (resumeBody c s).1 := by
  unfold resumeBody
  split
  · exact Keeps_toPhase _ _ _
  · exact Keeps_refl s

theorem recoverBody_keeps (c : Chan) (s : State) : Keeps s (recoverBody c s).1 := by
  unfold recoverBody
  split
  · next e =>
    refine Keeps_modChan ⟨rfl, fun _ _ => id, fun _ => ⟨Nat.zero_le _, fun a => ?_⟩, fun h _ => h (by rw [e]; rfl)⟩
    simp [recoverChannel, Config.followErrorLimit]
  · exact Keeps_refl s

theorem tallyChannel_keeps (f : Chan → Bool) (s : State) (c : Chan) : Keeps s (tallyChannel f s c) := by
  have h (t : Tally) : Keeps s (s.modChan c fun ch => { ch with tally := t }) :=
    Keeps_modChan (ChanKeeps_same rfl rfl rfl rfl rfl rfl)
  simp only [tallyChannel, tallyChange]
  generalize (if f c = true then Tally.onAir else Tally.offAir) = t
  split
  · exact Keeps_refl s
  · split
    · split
      · exact h _
      · refine Keeps_trans (h _) (Keeps_trans (dropWaiter_keeps _ _) (Keeps_modChan ?_))
        exact ChanKeeps_trans (toPhase_keeps .idle _) (ChanKeeps_same rfl rfl rfl rfl rfl rfl)
    · split
      · exact h _
      · exact Keeps_trans (h _) (enterStopping_keeps Keeps_id _ _ _ _ _)
    · exact h _

theorem tallyFrame_keeps (p : List Byte) (s : State) : Keeps s (tallyFrame p s) := by
  unfold tallyFrame
  split
  · exact Keeps_refl s
  · exact Keeps_trans (foldl_keeps _ (fun t c => tallyChannel_keeps _ t c) _ _) (walk_keeps _)

theorem settleTest_keeps (c : Chan) (s : State) : Keeps s (settleTest c s) := by
  unfold settleTest
  split
  · split
    · exact moveEnd_keeps walk_keeps _ _ _ _
    · exact Keeps_refl s
  · exact Keeps_refl s

theorem validate_keeps (f : PositionFields) (x : Channel) : ChanKeeps x (validate f (storeReport f x)) := by
  refine ChanKeeps_trans (y := storeReport f x) ⟨rfl, fun _ _ => id, fun h => ⟨Nat.zero_le _, h.2⟩, id⟩ ?_
  unfold validate
  split
  · exact ChanKeeps_same rfl rfl rfl rfl rfl rfl
  · exact ChanKeeps_refl _

theorem followCounts_keeps (f : PositionFields) (x : Channel) : ChanKeeps x { x with followErrors := followCounts f x } := by
  refine ⟨rfl, fun _ _ => id, fun h => ⟨h.1, fun a => ?_⟩, id⟩
  simp only [followCounts, PerAxis_get_ofFn]
  split
  · split
    · exact Nat.min_le_left _ _
    · exact Nat.zero_le _
  · exact h.2 a

theorem takePosition_keeps (c : Chan) (f : PositionFields) (s : State) : Keeps s (takePosition c f s) := by
  have h1 : Keeps s (s.modChan c fun ch => validate f (storeReport f ch)) := Keeps_modChan (validate_keeps _ _)
  simp only [takePosition]
  split
  · refine Keeps_trans h1 ?_
    generalize s.modChan c (fun ch => validate f (storeReport f ch)) = u
    have h2 : Keeps u (u.modChan c fun ch => { ch with followErrors := followCounts f ch }) :=
      Keeps_modChan (followCounts_keeps _ _)
    split
    · exact Keeps_trans h2 (enterFault_keeps _ _ _)
    · exact Keeps_trans h2 (settleTest_keeps _ _)
  · exact h1

theorem takeAlarm_keeps (c : Chan) (b : Byte) (s : State) : Keeps s (takeAlarm c b s) := by
  unfold takeAlarm
  split
  · exact Keeps_refl s
  · exact enterFault_keeps _ _ _

theorem takeJog_keeps (d : PerAxis (Option Int)) (x : Channel) : ChanKeeps x (takeJog d x) := by
  simp only [takeJog]
  split
  · exact ChanKeeps_motion rfl rfl rfl rfl rfl rfl
  · split
    · split
      · exact intoMotion_keeps rfl _
      · exact ChanKeeps_refl x
    · exact ChanKeeps_refl x

theorem jogFrame_keeps (c : Chan) (p : List Byte) (s : State) : Keeps s (jogFrame c p s) := by
  unfold jogFrame
  split
  · exact Keeps_refl s
  · exact Keeps_modChan (takeJog_keeps _ _)

theorem takeManualRequest_keeps (c : Chan) (s : State) : Keeps s (takeManualRequest c s) := by
  unfold takeManualRequest
  split
  all_goals first
    | exact enterManualWait_keeps walk_keeps _ _ _
    | exact Keeps_modChan (ChanKeeps_same rfl rfl rfl rfl rfl rfl)
    | exact Keeps_trans (pushHead_keeps _ _) (notice_keeps _ _)
    | exact Keeps_refl s

theorem takeManualRelease_keeps (c : Chan) (s : State) : Keeps s (takeManualRelease c s) := by
  unfold takeManualRelease
  split
  · exact Keeps_trans (dropWaiter_keeps _ _) (Keeps_trans (walk_keeps _)
      (Keeps_trans (notice_keeps _ _) (Keeps_toPhase _ _ _)))
  · exact Keeps_trans (Keeps_modChan (takeReportedIf_keeps _)) (Keeps_trans (notice_keeps _ _) (Keeps_toPhase _ _ _))
  · exact Keeps_refl s

/-! ## Field events of a channel -/

theorem completeProfile_keeps (c : Chan) (m : Move) (s : State) : Keeps s (completeProfile c m s) := by
  unfold completeProfile
  split
  · exact Keeps_modChan (ChanKeeps_motion rfl rfl rfl rfl rfl rfl)
  · exact moveEnd_keeps walk_keeps _ _ _ _

theorem moveField_keeps (c : Chan) (m : Move) (s : State) : Keeps s (moveField c m s) := by
  have h : Keeps s (emitProfile c m s) := by
    unfold emitProfile
    exact Keeps_trans (emit_keeps _ _ _) (Keeps_modChan (ChanKeeps_motion rfl rfl rfl rfl rfl rfl))
  simp only [moveField]
  split
  · exact Keeps_trans h (completeProfile_keeps _ _ _)
  · exact h

theorem requestMove_keeps (c : Chan) (m : Move) (s : State) : Keeps s (requestMove c m s) := by
  simp only [requestMove]
  generalize walkPass s.floor.owners [] (s.floor.waiters ++ [⟨c, .move, m.zones⟩]) = r
  have h1 : Keeps s { s with floor := ⟨r.1, r.2.1⟩ } := setFloor_keeps _ s
  generalize ({ s with floor := ⟨r.1, r.2.1⟩ } : State) = u at h1
  have h2 : Keeps u (if (r.2.2.any fun w => w.channel == c) = true then u
      else u.modChan c (intoMotion (.zoneWait m))) := by
    split
    · exact Keeps_refl u
    · exact Keeps_modChan (intoMotion_keeps rfl _)
  have h3 := Keeps_trans h1 (Keeps_trans h2
    (foldl_keeps _ (fun t w => takeGrant_keeps walk_keeps t w) (r.2.2.filter fun w => w.channel != c) _))
  split
  · exact h3
  · split
    · exact Keeps_trans h3 (moveEnd_keeps walk_keeps _ _ _ _)
    · exact Keeps_trans h3 (Keeps_trans (Keeps_modChan (intoMotion_keeps rfl _)) (moveField_keeps _ _ _))

theorem resolveMove_keeps (c : Chan) (q : Cue) (r : Shot) (s : State) : Keeps s (resolveMove c q r s) := by
  simp only [resolveMove]
  split
  · exact Keeps_modChan (ChanKeeps_same rfl rfl rfl rfl rfl rfl)
  · split
    · exact moveEnd_keeps walk_keeps _ _ _ _
    · split
      · exact moveEnd_keeps walk_keeps _ _ _ _
      · exact requestMove_keeps _ _ _

theorem startAttempt_keeps (c : Chan) (s : State) : Keeps s (startAttempt c s) := by
  simp only [startAttempt]
  split
  · exact enterManualWait_keeps walk_keeps _ _ _
  · split
    · exact Keeps_refl s
    · split
      · exact Keeps_refl s
      · next q qs _ _ =>
        have h : Keeps s (s.modChan c fun ch => { ch with queue := qs }) :=
          Keeps_modChan (ChanKeeps_same rfl rfl rfl rfl rfl rfl)
        split
        · exact Keeps_trans h (moveEnd_keeps walk_keeps _ _ _ _)
        · exact Keeps_trans h (resolveMove_keeps _ _ _ _)

theorem zoneWaitField_keeps (c : Chan) (m : Move) (s : State) : Keeps s (zoneWaitField c m s) := by
  simp only [zoneWaitField]
  split
  · exact Keeps_trans (Keeps_modChan (ChanKeeps_motion rfl rfl rfl rfl rfl rfl)) (withdrawMove_keeps walk_keeps _ _ _ _ _)
  · exact Keeps_modChan (ChanKeeps_motion rfl rfl rfl rfl rfl rfl)

theorem stopField_keeps (c : Chan) (m : Move) (st : Stop) (s : State) : Keeps s (stopField c m st s) := by
  simp only [stopField]
  split
  · exact Keeps_trans (emit_keeps _ _ _) (Keeps_trans (Keeps_modChan (ChanKeeps_motion rfl rfl rfl rfl rfl rfl))
      (moveEnd_keeps walk_keeps _ _ _ _))
  · exact Keeps_trans (emit_keeps _ _ _) (Keeps_modChan (ChanKeeps_motion rfl rfl rfl rfl rfl rfl))

theorem settleField_keeps (c : Chan) (m : Move) (s : State) : Keeps s (settleField c m s) := by
  simp only [settleField]
  split
  · exact Keeps_trans (Keeps_modChan (ChanKeeps_motion rfl rfl rfl rfl rfl rfl)) (moveEnd_keeps walk_keeps _ _ _ _)
  · exact Keeps_modChan (ChanKeeps_motion rfl rfl rfl rfl rfl rfl)

theorem jogField_keeps (c : Chan) (j : Jog) (s : State) : Keeps s (jogField c j s) := by
  simp only [jogField]
  split
  · exact Keeps_trans (emit_keeps _ _ _) (Keeps_trans (Keeps_modChan (ChanKeeps_motion rfl rfl rfl rfl rfl rfl))
      (enterRest_keeps walk_keeps _ _ _))
  · exact Keeps_trans (emit_keeps _ _ _) (Keeps_modChan (ChanKeeps_motion rfl rfl rfl rfl rfl rfl))

theorem manualWaitField_keeps (c : Chan) (r : RestState) (n : Nat) (s : State) (h : inMotion (s.chan c).phase = false) :
    Keeps s (manualWaitField c r n s) := by
  have k : Keeps s (s.modChan c fun ch => { ch with phase := .manualWait r (nextCount n) }) :=
    Keeps_modChan (ChanKeeps_of_fields rfl rfl rfl rfl rfl fun _ => h)
  simp only [manualWaitField]
  split
  · exact Keeps_trans k (Keeps_trans (dropWaiter_keeps _ _) (Keeps_trans (walk_keeps _)
      (Keeps_trans (pushHead_keeps _ _) (Keeps_trans (notice_keeps _ _) (Keeps_toPhase _ _ _)))))
  · exact k

theorem bookkeep_keeps (x : Channel) : ChanKeeps x (bookkeep x) :=
  ⟨rfl, fun _ _ => id, fun h => ⟨Nat.min_le_left _ _, h.2⟩, id⟩

theorem fieldWork_keeps (c : Chan) (s : State) : Keeps s (fieldWork c s) := by
  unfold fieldWork
  split
  · exact startAttempt_keeps _ _
  · exact zoneWaitField_keeps _ _ _
  · exact moveField_keeps _ _ _
  · exact stopField_keeps _ _ _ _
  · exact settleField_keeps _ _ _
  · exact jogField_keeps _ _ _
  · next h => exact manualWaitField_keeps _ _ _ _ (by rw [h]; rfl)
  all_goals exact Keeps_refl s

theorem takeField_keeps (c : Chan) (s : State) : Keeps s (takeField c s) := by
  unfold takeField
  split
  · exact Keeps_refl s
  · split
    · exact Keeps_modChan (ChanKeeps_same rfl rfl rfl rfl rfl rfl)
    · have h : Keeps s (s.modChan c bookkeep) := Keeps_modChan (bookkeep_keeps _)
      dsimp only
      split
      · exact Keeps_trans h (enterFault_keeps _ _ _)
      · exact Keeps_trans h (fieldWork_keeps _ _)

theorem fieldStep_keeps (p : Channel → Bool) (c : Chan) (s : State) : Keeps s (fieldStep p c s) := by
  unfold fieldStep
  split
  · exact takeField_keeps _ _
  · exact Keeps_refl s

theorem grantStep_keeps (k : WaiterKind) (c : Chan) (s : State) : Keeps s (grantStep k c s) := by
  unfold grantStep
  split
  · exact Keeps_refl s
  · split
    · exact Keeps_trans (dropWaiter_keeps _ _) (Keeps_trans (setFloor_keeps _ _) (takeGrant_keeps walk_keeps _ _))
    · exact Keeps_refl s

theorem admitOldest_keeps (s : State) : Keeps s (admitOldest s) := by
  unfold admitOldest
  split
  · exact Keeps_refl s
  · split
    · split
      · exact Keeps_refl s
      · exact Keeps_trans (t := { s with poolFree := s.poolFree - 1 })
          (Keeps_of_fields rfl rfl rfl rfl rfl rfl rfl rfl) (admitParked_keeps _ _ _)
    · exact Keeps_refl s

theorem zoneReleaseBody_keeps (p : List Byte) (s : State) : Keeps s (zoneReleaseBody p s).1 := by
  unfold zoneReleaseBody
  split
  · split
    · exact Keeps_refl s
    · split
      · exact Keeps_trans (freeZones_keeps _ _) (walk_keeps _)
      · exact Keeps_refl s
  · exact Keeps_refl s

end Sys2Proof.Machine
end

