-- ==== Sys2Proof/Laws/Reception.lean ====
section
/-! SUPPORT. Reception and answers: where a frame that arrives is taken, and what an answered frame comes to. -/

namespace Sys2Proof.Machine

/-- A kind byte taken at the part's own address is read back as its kind (R172). -/
@[simp] theorem partKind_partCode (k : PartKind) : partKind (partCode k) = some k := by cases k <;> rfl

/-- A camera command's kind byte is read back as its kind (R172). -/
@[simp] theorem cameraKind_cameraCode (k : CameraKind) : cameraKind (cameraCode k) = some k := by cases k <;> rfl

/-- A head frame's kind byte is read back as its kind (R172). -/
@[simp] theorem headKind_headCode (k : HeadKind) : headKind (headCode k) = some k := by cases k <;> rfl

/-- No camera command is a kind taken at the part's own address (R172). -/
@[simp] theorem partKind_cameraCode (k : CameraKind) : partKind (cameraCode k) = none := by cases k <;> rfl

/-- A frame that finds a free entry is executed with an entry reserved, which its answer fills (R186). -/
theorem answered_free {k : Byte} {body : State → State × Reply} {s : State} (h : s.outFree ≠ 0) :
    answered k body s = fillAnswer k (body (reserve s)).2 (body (reserve s)).1 := by simp [answered, h]

/-- A frame that finds no free entry is discarded whole (R186). -/
theorem answered_full {k : Byte} {body : State → State × Reply} {s : State} (h : s.outFree = 0) :
    answered k body s = s := by simp [answered, h]

/-- While the reset is asserted no frame is received (R192). -/
theorem receive_held {p : Port} {f : Frame} {s : State} (h : s.resetHeld = true) : receive p f s = s := by
  simp [receive, h]

/-- A receivable frame is classified at its arrival (R171). -/
theorem receive_of {p : Port} {f : Frame} {s : State} (h : Receivable s f) :
    receive p f s = classify p f (arrive p s) := by simp [receive, h.1, h.2]

theorem afterControl_eq (s : State) : arrive .control s = afterControl s := rfl

theorem afterHead_eq (s : State) : arrive .head s = afterHead s := rfl

@[simp] theorem afterControl_outFree (s : State) : (afterControl s).outFree = s.outFree := rfl

@[simp] theorem afterControl_chan (s : State) (c : Chan) : (afterControl s).chan c = s.chan c := rfl

@[simp] theorem afterHead_chan (s : State) (c : Chan) : (afterHead s).chan c = s.chan c := rfl

/-- Which channel holds a link address depends on the channels alone. -/
theorem channelAt_congr {s t : State} (h : t.channels = s.channels) (b : Byte) : t.channelAt b = s.channelAt b := by
  simp [State.channelAt, State.chan, h]

/-- A frame of a part kind at the part's own address is taken by its block (R173). -/
theorem receive_part {s : State} {m : Msg} {k : PartKind} (h : Receivable s (m.frame (partCode k)))
    (hd : m.dest = s.partAddress) :
    receive .control (m.frame (partCode k)) s = partFrame k (m.frame (partCode k)) (afterControl s) := by
  rw [receive_of h]
  simp [classify, controlFrame, ownFrame, afterControl_eq, Msg.frame, hd]
  simp [afterControl]

/-- A camera command at the link address of a mapped channel is taken by that channel (R173). -/
theorem receive_camera {s : State} {m : Msg} {k : CameraKind} {c : Chan} (h : AtCamera s m (cameraCode k) c) :
    receive .control (m.frame (cameraCode k)) s = cameraFrame c k (m.frame (cameraCode k)) (afterControl s) := by
  obtain ⟨h, hd, hc⟩ := h
  rw [receive_of h]
  have e : (afterControl s).channelAt m.dest = some c := hc
  have e' : m.dest ≠ (afterControl s).partAddress := hd
  simp [classify, controlFrame, afterControl_eq, Msg.frame, e, e']

/-- A frame from the head of a mapped channel, of a kind taken from the heads, is taken by that channel (R175). -/
theorem receive_head {s : State} {m : Msg} {k : HeadKind} {c : Chan} (h : FromHead s m (headCode k) c) :
    receive .head (m.frame (headCode k)) s = headChannelFrame c k (m.frame (headCode k)) (afterHead s) := by
  obtain ⟨h, hc⟩ := h
  rw [receive_of h]
  have e : (afterHead s).channelAt m.source = some c := hc
  simp [classify, headFrame, afterHead_eq, Msg.frame, e]

/-- Outside a transmitter's turn nothing is sent: the reset is asserted, or no frame has reached the part (R192). -/
theorem boundaries_quiet {s : State} (h : maySend s = false) : headBoundary s = s ∧ controlBoundary s = s := by
  simp [headBoundary, controlBoundary, h]

/-- An answer to a frame that changes nothing else. -/
theorem fillAnswer_reserve (k : Byte) (r : Reply) (s : State) :
    fillAnswer k r (reserve (afterControl s)) = withAnswer s k r := rfl

end Sys2Proof.Machine
end

