-- ==== Sys2Proof/Laws/Aside.lean ====
section
/-! SUPPORT. What a move end, a grant and a walk leave at a channel they do not serve: everything but its queue, its
ranks and its parked call, which the release of an entry may change (R91). -/

namespace Sys2Proof.Machine

/-- A channel is left as it was, but for its queue, its ranks and its parked call. -/
def Aside (c : Chan) (s t : State) : Prop :=
  ∃ q n p, t.chan c = { s.chan c with queue := q, nextRank := n, parked := p }

theorem Aside_of_eq {c : Chan} {s t : State} (h : t.chan c = s.chan c) : Aside c s t :=
  ⟨(s.chan c).queue, (s.chan c).nextRank, (s.chan c).parked, h⟩

theorem Aside_refl (c : Chan) (s : State) : Aside c s s := Aside_of_eq rfl

theorem Aside_trans {c : Chan} {s t u : State} (h : Aside c s t) (k : Aside c t u) : Aside c s u := by
  obtain ⟨q, n, p, h⟩ := h
  obtain ⟨q', n', p', k⟩ := k
  exact ⟨q', n', p', by rw [k, h]⟩

theorem Aside_phase {c : Chan} {s t : State} (h : Aside c s t) : (t.chan c).phase = (s.chan c).phase := by
  obtain ⟨q, n, p, h⟩ := h
  rw [h]

/-- A change of another channel. -/
theorem Aside_modChan {c d : Chan} (h : c ≠ d) (s : State) (f : Channel → Channel) : Aside c s (s.modChan d f) :=
  Aside_of_eq (modChan_chan_ne s f h)

theorem Aside_releaseEntry (c : Chan) (o : Option Chan) (s : State) : Aside c s (releaseEntry o s) := by
  unfold releaseEntry
  split
  · next d _ =>
    split
    · next call _ =>
      by_cases e : c = d
      · subst e
        exact ⟨(admitCall call (s.chan c)).queue, (admitCall call (s.chan c)).nextRank, none, by
          rw [admitParked_chan, if_pos rfl]
          rfl⟩
      · exact Aside_of_eq (by rw [admitParked_chan, if_neg e])
    · exact Aside_refl c s
  · exact Aside_refl c s

theorem Aside_flushQueue (c d : Chan) (s : State) : Aside c s (flushQueue d s) := by
  unfold flushQueue
  have h1 : Aside c s (s.modChan d fun ch => { ch with queue := [] }) := by
    by_cases e : c = d
    · subst e
      exact ⟨[], (s.chan c).nextRank, (s.chan c).parked, by simp⟩
    · exact Aside_modChan e s _
  refine Aside_trans h1 ?_
  generalize byRank (s.chan d).queue = qs
  generalize s.modChan d (fun ch => { ch with queue := [] }) = u
  induction qs generalizing u with
  | nil => exact Aside_refl c u
  | cons x xs ih =>
    exact Aside_trans (Aside_trans (Aside_of_eq (by simp [unstarted])) (Aside_releaseEntry c _ _)) (ih _)

theorem Aside_displaceParked (c d : Chan) (s : State) : Aside c s (displaceParked d s) := by
  by_cases e : c = d
  · subst e
    exact ⟨(s.chan c).queue, (s.chan c).nextRank, none, by rw [displaceParked_chan, if_pos rfl]⟩
  · exact Aside_of_eq (by rw [displaceParked_chan, if_neg e])

/-- The walk leaves a channel that it does not serve. -/
def LeavesUnserved (walk : State → State) : Prop :=
  ∀ (c : Chan) (s : State), (∀ m, (s.chan c).phase ≠ .zoneWait m) → (∀ r n, (s.chan c).phase ≠ .manualWait r n) →
    Aside c s (walk s)

theorem LeavesUnserved_id : LeavesUnserved id := fun c s _ _ => Aside_refl c s

section
variable {walk : State → State} (hw : LeavesUnserved walk) {c : Chan}
include hw

theorem Aside_settleFloor (d : Chan) (keep : Option (List Zone)) {s : State} (h1 : ∀ m, (s.chan c).phase ≠ .zoneWait m)
    (h2 : ∀ r n, (s.chan c).phase ≠ .manualWait r n) : Aside c s (settleFloor walk d keep s) := by
  unfold settleFloor
  split
  · exact Aside_refl c s
  · split
    · exact Aside_refl c s
    · exact Aside_trans (Aside_of_eq (by simp)) (hw c _ (by simpa using h1) (by simpa using h2))

theorem Aside_enterManualWait {d : Chan} (hd : c ≠ d) (r : RestState) {s : State}
    (h1 : ∀ m, (s.chan c).phase ≠ .zoneWait m) (h2 : ∀ r n, (s.chan c).phase ≠ .manualWait r n) :
    Aside c s (enterManualWait walk d r s) := by
  have a := Aside_trans (Aside_modChan hd s fun ch => { toPhase (.manualWait r 0) ch with manualPending := false })
    (Aside_of_eq (addWaiter_chan ⟨d, .manual, (s.chan d).config.manualZones⟩ _ c))
  have b := Aside_phase a
  exact Aside_trans a (hw c _ (by rw [b]; exact h1) (by rw [b]; exact h2))

theorem Aside_enterRest {d : Chan} (hd : c ≠ d) (r : RestState) {s : State}
    (h1 : ∀ m, (s.chan c).phase ≠ .zoneWait m) (h2 : ∀ r n, (s.chan c).phase ≠ .manualWait r n) :
    Aside c s (enterRest walk d r s) := by
  have a := Aside_modChan hd s (toPhase (restPhase r))
  have b := Aside_phase a
  simp only [enterRest]
  split
  · exact Aside_trans a (Aside_enterManualWait hw hd _ (by rw [b]; exact h1) (by rw [b]; exact h2))
  · exact a

/-- The end of another channel's move leaves a channel that does not wait. -/
theorem Aside_moveEnd {d : Chan} (hd : c ≠ d) (e : MoveEnd) (x : MoveExit) {s : State} (h1 : ∀ m, (s.chan c).phase ≠ .zoneWait m)
    (h2 : ∀ r n, (s.chan c).phase ≠ .manualWait r n) : Aside c s (moveEnd walk d e x s) := by
  have a1 : Aside c s (releaseEntry none ((notice (moveEndBytes d e.cue.shot e.cue.tag e) s).modChan d
      fun ch => { ch with last := some (e.cue.shot, e.outcome) })) :=
    Aside_trans (Aside_trans (Aside_of_eq (by simp)) (Aside_modChan hd _ _)) (Aside_releaseEntry c _ _)
  have b1 := Aside_phase a1
  have a2 := Aside_trans a1 (Aside_settleFloor hw d e.keep (by rw [b1]; exact h1) (by rw [b1]; exact h2))
  have b2 := Aside_phase a2
  cases x with
  | rest r => exact Aside_trans a2 (Aside_enterRest hw hd r (by rw [b2]; exact h1) (by rw [b2]; exact h2))
  | fault => exact Aside_trans a2 (Aside_modChan hd _ _)

end

/-- A grant leaves a channel that does not wait. -/
theorem Aside_takeGrant {walk : State → State} (hw : LeavesUnserved walk) {c : Chan} (w : Waiter) {s : State}
    (h1 : ∀ m, (s.chan c).phase ≠ .zoneWait m) (h2 : ∀ r n, (s.chan c).phase ≠ .manualWait r n) :
    Aside c s (takeGrant walk s w) := by
  by_cases e : c = w.channel
  · unfold takeGrant
    rw [← e]
    split
    · next m h => exact absurd h (h1 m)
    · next r n h => exact absurd h (h2 r n)
    · exact Aside_refl c s
  · unfold takeGrant
    split
    · split
      · exact Aside_moveEnd hw e _ _ h1 h2
      · exact Aside_modChan e s _
    · exact Aside_trans (Aside_of_eq (by simp)) (Aside_modChan e _ _)
    · exact Aside_refl c s

theorem LeavesUnserved_walkN (n : Nat) : LeavesUnserved (walkN n) := by
  induction n with
  | zero => exact fun c s _ _ => Aside_refl c s
  | succ n ih =>
    intro c s h1 h2
    have fold : ∀ (ws : List Waiter) (u : State), (∀ m, (u.chan c).phase ≠ .zoneWait m) →
        (∀ r n, (u.chan c).phase ≠ .manualWait r n) → Aside c u (ws.foldl (takeGrant (walkN n)) u) := by
      intro ws
      induction ws with
      | nil => exact fun u _ _ => Aside_refl c u
      | cons w ws ih' =>
        intro u k1 k2
        have a := Aside_takeGrant ih w k1 k2
        have b := Aside_phase a
        exact Aside_trans a (ih' _ (by rw [b]; exact k1) (by rw [b]; exact k2))
    exact Aside_trans (Aside_of_eq rfl) (fold _ _ h1 h2)

/-- The walk leaves a channel that does not wait (R129). -/
theorem LeavesUnserved_walk : LeavesUnserved walk := fun c s => LeavesUnserved_walkN _ c s

end Sys2Proof.Machine
end

