-- ==== Sys2Proof/Laws/ShotTable.lean ====
section
/-! SUPPORT. The shot directory: what putting a record under a key and erasing one do, and that both keep the order (R1). -/

namespace Sys2Proof.Machine

theorem hasKey_iff (c : Chan) (n : Nat) (r : Shot) : hasKey c n r = true ↔ r.channel = c ∧ r.number = n := by
  simp [hasKey]

theorem hasKey_eq_false_iff (c : Chan) (n : Nat) (r : Shot) :
    hasKey c n r = false ↔ ¬ (r.channel = c ∧ r.number = n) := by
  rw [Bool.eq_false_iff, Ne, hasKey_iff]

/-- No record of a key is left by its erasure. -/
theorem not_mem_eraseShot {c : Chan} {n : Nat} {rs : List Shot} {x : Shot} (h : x ∈ eraseShot c n rs) :
    ¬ (x.channel = c ∧ x.number = n) := by
  rw [← hasKey_iff]
  simp [eraseShot] at h
  simp [h.2]

/-- After a record is inserted among records of other keys, its own key finds it and every other key finds what it
found. -/
theorem find_insertShot {r : Shot} {rs : List Shot} (c : Chan) (n : Nat)
    (h : ∀ x ∈ rs, ¬ (x.channel = r.channel ∧ x.number = r.number)) :
    (insertShot r rs).find? (hasKey c n)
      = if c = r.channel ∧ n = r.number then some r else rs.find? (hasKey c n) := by
  have key (e : ¬ (c = r.channel ∧ n = r.number)) : hasKey c n r = false :=
    (hasKey_eq_false_iff c n r).2 fun k => e ⟨k.1.symm, k.2.symm⟩
  have self (e : c = r.channel ∧ n = r.number) : hasKey c n r = true := (hasKey_iff c n r).2 ⟨e.1.symm, e.2.symm⟩
  induction rs with
  | nil =>
    by_cases e : c = r.channel ∧ n = r.number
    · rw [if_pos e, insertShot, List.find?_cons, self e]
    · rw [if_neg e, insertShot, List.find?_cons, key e]
  | cons x xs ih =>
    have ih := ih fun y hy => h y (List.mem_cons_of_mem _ hy)
    by_cases e : c = r.channel ∧ n = r.number
    · have kx : hasKey c n x = false :=
        (hasKey_eq_false_iff c n x).2 fun k => h x List.mem_cons_self ⟨k.1.trans e.1, k.2.trans e.2⟩
      rw [if_pos e] at ih ⊢
      unfold insertShot
      split
      · rw [List.find?_cons, self e]
      · rw [List.find?_cons, kx, ih]
    · rw [if_neg e] at ih ⊢
      unfold insertShot
      split
      · rw [List.find?_cons, key e]
      · rw [List.find?_cons, List.find?_cons, ih]

theorem length_insertShot (r : Shot) (rs : List Shot) : (insertShot r rs).length = rs.length + 1 := by
  induction rs with
  | nil => rfl
  | cons x xs ih => unfold insertShot; split <;> simp [ih]

/-- After an erasure the erased key finds nothing and every other key finds what it found (R9). -/
theorem find_eraseShot (c d : Chan) (n k : Nat) (rs : List Shot) :
    (eraseShot c n rs).find? (hasKey d k) = if d = c ∧ k = n then none else rs.find? (hasKey d k) := by
  rw [eraseShot, List.find?_filter]
  split
  · next e =>
    obtain ⟨rfl, rfl⟩ := e
    rw [List.find?_eq_none]
    simp
  · next e =>
    congr 1
    funext x
    by_cases hx : hasKey d k x = true
    · have : hasKey c n x = false := by
        rw [hasKey_eq_false_iff]
        rw [hasKey_iff] at hx
        exact fun h => e ⟨hx.1.symm.trans h.1, hx.2.symm.trans h.2⟩
      simp [hx, this]
    · simp [hx]

/-- After a record is put, its key finds it and every other key finds what it found (R7, R8). -/
theorem find_putShot (r : Shot) (rs : List Shot) (c : Chan) (n : Nat) :
    (putShot r rs).find? (hasKey c n)
      = if c = r.channel ∧ n = r.number then some r else rs.find? (hasKey c n) := by
  rw [putShot, find_insertShot c n fun x hx => not_mem_eraseShot hx, find_eraseShot]
  split <;> rfl

/-- In a directory in order, an erasure takes away one record exactly when its key is present (R9). -/
theorem length_eraseShot {rs : List Shot} (h : rs.Pairwise fun x y => shotBefore x y = true) (c : Chan) (n : Nat) :
    (eraseShot c n rs).length + (if (rs.find? (hasKey c n)).isSome then 1 else 0) = rs.length := by
  induction rs with
  | nil => rfl
  | cons x xs ih =>
    rw [List.pairwise_cons] at h
    have ih := ih h.2
    by_cases k : hasKey c n x = true
    · have hx : xs.filter (fun r => !hasKey c n r) = xs := by
        rw [List.filter_eq_self]
        intro y hy
        have b := h.1 y hy
        rw [hasKey_iff] at k
        rw [Bool.not_eq_true', hasKey_eq_false_iff]
        rintro ⟨rfl, rfl⟩
        simp [shotBefore, k] at b
      simp [eraseShot, k, hx]
    · simp only [eraseShot, Bool.not_eq_true] at ih k ⊢
      rw [List.filter_cons, List.find?_cons, k]
      simp only [Bool.not_false, if_true, List.length_cons]
      omega

theorem mem_insertShot {r x : Shot} {rs : List Shot} : x ∈ insertShot r rs ↔ x = r ∨ x ∈ rs := by
  induction rs with
  | nil => simp [insertShot]
  | cons y ys ih =>
    unfold insertShot
    split
    · simp
    · simp only [List.mem_cons, ih]
      tauto

theorem shotBefore_iff (x y : Shot) :
    shotBefore x y = true ↔ x.channel < y.channel ∨ (x.channel = y.channel ∧ x.number < y.number) := by
  simp [shotBefore]

/-- Inserting a record of a new key keeps the order of the directory (R1). -/
theorem insertShot_pairwise {r : Shot} {rs : List Shot} (h : rs.Pairwise fun x y => shotBefore x y = true)
    (hk : ∀ x ∈ rs, ¬ (x.channel = r.channel ∧ x.number = r.number)) :
    (insertShot r rs).Pairwise fun x y => shotBefore x y = true := by
  induction rs with
  | nil => simp [insertShot]
  | cons x xs ih =>
    rw [List.pairwise_cons] at h
    unfold insertShot
    split
    · next b =>
      refine List.pairwise_cons.2 ⟨fun y hy => ?_, List.pairwise_cons.2 h⟩
      rcases List.mem_cons.1 hy with rfl | hy
      · exact b
      · have c := h.1 y hy
        rw [shotBefore_iff] at b c ⊢
        rcases b with b | ⟨b, b'⟩ <;> rcases c with c | ⟨c, c'⟩
        · exact Or.inl (b.trans c)
        · exact Or.inl (c ▸ b)
        · exact Or.inl (b ▸ c)
        · exact Or.inr ⟨b.trans c, b'.trans c'⟩
    · next b =>
      refine List.pairwise_cons.2 ⟨fun y hy => ?_, ih h.2 fun y hy => hk y (List.mem_cons_of_mem _ hy)⟩
      rcases mem_insertShot.1 hy with rfl | hy
      · have k := hk x List.mem_cons_self
        rw [shotBefore_iff] at b ⊢
        rcases lt_trichotomy x.channel y.channel with c | c | c
        · exact Or.inl c
        · have : x.number ≠ y.number := fun e => k ⟨c, e⟩
          exact Or.inr ⟨c, by
            by_contra d
            exact b (Or.inr ⟨c.symm, by omega⟩)⟩
        · exact absurd (Or.inl c) b
      · exact h.1 y hy

theorem eraseShot_pairwise {rs : List Shot} (h : rs.Pairwise fun x y => shotBefore x y = true) (c : Chan) (n : Nat) :
    (eraseShot c n rs).Pairwise fun x y => shotBefore x y = true := h.filter _

theorem putShot_pairwise {rs : List Shot} (h : rs.Pairwise fun x y => shotBefore x y = true) (r : Shot) :
    (putShot r rs).Pairwise fun x y => shotBefore x y = true :=
  insertShot_pairwise (eraseShot_pairwise h _ _) fun _ hx => not_mem_eraseShot hx

/-- In a directory in order, a put adds one record exactly when its key is new (R7, R8). -/
theorem length_putShot {rs : List Shot} (h : rs.Pairwise fun x y => shotBefore x y = true) (r : Shot) :
    (putShot r rs).length = rs.length + (if (rs.find? (hasKey r.channel r.number)).isSome then 0 else 1) := by
  have := length_eraseShot h r.channel r.number
  rw [putShot, length_insertShot]
  split at this <;> simp_all

end Sys2Proof.Machine
end

