-- ==== Sys2Proof/Laws/Walk.lean ====
section
/-! SUPPORT. The walk: what one pass over the waiters leaves (R129), and that every operation that changes the list or
frees a zone leaves no waiter that a walk would grant (R130). -/

namespace Sys2Proof.Machine

/-! ## One pass (R129) -/

theorem setOwner_get (owners : Vector (Option Chan) 24) (x z : Zone) (o : Option Chan) :
    (owners.set x.val o x.isLt).get z = if z = x then o else owners.get z := by
  have get (v : Vector (Option Chan) 24) (y : Zone) : v.get y = v[y.val] := rfl
  simp only [get, Vector.getElem_set]
  by_cases h : z = x
  · simp [h]
  · have : x.val ≠ z.val := fun e => h (Fin.ext e.symm)
    simp [h, this]

/-- Zones taken are owned by the channel that takes them, and no other zone changes. -/
theorem ownZones_get (c : Chan) (z : Zone) (zs : List Zone) (owners : Vector (Option Chan) 24) :
    (ownZones owners c zs).get z = if z ∈ zs then some c else owners.get z := by
  induction zs generalizing owners with
  | nil => rfl
  | cons x xs ih =>
    have : ownZones owners c (x :: xs) = ownZones (owners.set x.val (some c) x.isLt) c xs := rfl
    rw [this, ih, setOwner_get]
    by_cases h : z ∈ xs <;> by_cases e : z = x <;> simp [h, e]

/-- Zones freed are FREE, and no other zone changes. -/
theorem freeZones_get (z : Zone) (zs : List Zone) (s : State) :
    (freeZones zs s).floor.owners.get z = if z ∈ zs then none else s.floor.owners.get z := by
  have h : ∀ owners : Vector (Option Chan) 24,
      (zs.foldl (fun o z => o.set z.val none z.isLt) owners).get z = if z ∈ zs then none else owners.get z := by
    induction zs with
    | nil => exact fun _ => rfl
    | cons x xs ih =>
      intro owners
      rw [List.foldl_cons, ih, setOwner_get]
      by_cases h : z ∈ xs <;> by_cases e : z = x <;> simp [h, e]
  exact h _

theorem zoneGrantable_iff {owners : Vector (Option Chan) 24} {reserved : List Zone} {c : Chan} {z : Zone} :
    zoneGrantable owners reserved c z = true ↔
      owners.get z = some c ∨ (owners.get z = none ∧ z ∉ reserved) := by
  unfold zoneGrantable
  cases h : owners.get z <;> simp

/-- A pass takes no zone from an owner. -/
theorem walkPass_owned {z : Zone} {o : Chan} (ws : List Waiter) {owners : Vector (Option Chan) 24} {reserved : List Zone}
    (h : owners.get z = some o) : (walkPass owners reserved ws).1.get z = some o := by
  induction ws generalizing owners reserved with
  | nil => exact h
  | cons w ws ih =>
    rw [walkPass]
    split
    · next g =>
      refine ih ?_
      rw [ownZones_get]
      split
      · next hz =>
        rcases zoneGrantable_iff.1 (List.all_eq_true.1 g z hz) with e | e
        · rw [← e, h]
        · rw [h] at e
          cases e.1
      · exact h
    · exact ih h

/-- A pass takes no reserved zone. -/
theorem walkPass_reserved {z : Zone} (ws : List Waiter) {owners : Vector (Option Chan) 24} {reserved : List Zone}
    (h : owners.get z = none) (hr : z ∈ reserved) : (walkPass owners reserved ws).1.get z = none := by
  induction ws generalizing owners reserved with
  | nil => exact h
  | cons w ws ih =>
    rw [walkPass]
    split
    · next g =>
      refine ih ?_ hr
      rw [ownZones_get]
      split
      · next hz =>
        rcases zoneGrantable_iff.1 (List.all_eq_true.1 g z hz) with e | e
        · rw [h] at e
          cases e
        · exact absurd hr e.2
      · exact h
    · exact ih h (List.mem_append_left _ hr)

/-- A second pass over the waiters that stayed grants none of them. -/
theorem walkPass_again (ws : List Waiter) (owners : Vector (Option Chan) 24) (reserved : List Zone) :
    walkPass (walkPass owners reserved ws).1 reserved (walkPass owners reserved ws).2.1
      = ((walkPass owners reserved ws).1, (walkPass owners reserved ws).2.1, []) := by
  induction ws generalizing owners reserved with
  | nil => rfl
  | cons w ws ih =>
    rw [walkPass]
    split
    · exact ih _ _
    · next g =>
      obtain ⟨z, hz, hg⟩ := List.all_eq_false.1 (Bool.eq_false_iff.2 g)
      dsimp only
      have stays : ¬(w.zones.all (zoneGrantable (walkPass owners (reserved ++ w.zones) ws).1 reserved w.channel)) = true := by
        intro k
        have k := zoneGrantable_iff.1 (List.all_eq_true.1 k z hz)
        cases e : owners.get z with
        | none =>
          have hr : z ∈ reserved := by
            refine Classical.byContradiction fun n => hg (zoneGrantable_iff.2 (.inr ⟨e, n⟩))
          rw [walkPass_reserved ws e (List.mem_append_left _ hr)] at k
          simp [hr] at k
        | some o =>
          rw [walkPass_owned ws e] at k
          rcases k with k | k
          · exact hg (zoneGrantable_iff.2 (.inl (e.trans k)))
          · cases k.1
      rw [walkPass, if_neg stays, ih]

/-- The waiters of a pass are those that stay and those it grants. -/
theorem walkPass_length (ws : List Waiter) (owners : Vector (Option Chan) 24) (reserved : List Zone) :
    (walkPass owners reserved ws).2.1.length + (walkPass owners reserved ws).2.2.length = ws.length := by
  induction ws generalizing owners reserved with
  | nil => rfl
  | cons w ws ih =>
    rw [walkPass]
    split
    · simpa using by rw [← ih (ownZones owners w.channel w.zones) reserved]; omega
    · simpa using by rw [← ih owners (reserved ++ w.zones)]; omega

/-- A pass that grants no waiter leaves the floor as it was. -/
theorem walkPass_none {ws : List Waiter} {owners : Vector (Option Chan) 24} {reserved : List Zone}
    (h : (walkPass owners reserved ws).2.2 = []) :
    (walkPass owners reserved ws).1 = owners ∧ (walkPass owners reserved ws).2.1 = ws := by
  induction ws generalizing owners reserved with
  | nil => exact ⟨rfl, rfl⟩
  | cons w ws ih =>
    rw [walkPass] at h ⊢
    split at h
    · cases h
    · next g =>
      rw [if_neg g]
      exact ⟨(ih h).1, congrArg (w :: ·) (ih h).2⟩

/-! ## Waiting moves end in IDLE -/

/-- Every waiting move has the post-state IDLE (R75, R105). -/
def PostsIdle (s : State) : Prop := ∀ c m, (s.chan c).phase = .zoneWait m → m.post = .idle

theorem PostsIdle_of_phases {s t : State} (h : PostsIdle s) (k : ∀ c, (t.chan c).phase = (s.chan c).phase) : PostsIdle t :=
  fun c m e => h c m ((k c).symm.trans e)

theorem PostsIdle_modChan {s : State} {c : Chan} {f : Channel → Channel} (h : PostsIdle s)
    (k : ∀ m, (f (s.chan c)).phase = .zoneWait m → m.post = .idle) : PostsIdle (s.modChan c f) := by
  intro d m e
  rw [modChan_chan] at e
  split at e
  · exact k m e
  · exact h d m e

/-- A change of a channel that leaves its state. -/
theorem PostsIdle_same {s : State} {c : Chan} {f : Channel → Channel} (h : PostsIdle s)
    (k : (f (s.chan c)).phase = (s.chan c).phase) : PostsIdle (s.modChan c f) :=
  PostsIdle_modChan h fun m e => h c m (k.symm.trans e)

theorem PostsIdle_toPhase {s : State} {p : Phase} (c : Chan) (h : PostsIdle s) (k : ∀ m, p ≠ .zoneWait m) :
    PostsIdle (s.modChan c (toPhase p)) := PostsIdle_modChan h fun m e => absurd e (k m)

theorem releaseEntry_phase (o : Option Chan) (s : State) (c : Chan) :
    ((releaseEntry o s).chan c).phase = (s.chan c).phase := Aside_phase (Aside_releaseEntry c o s)

@[simp] theorem releaseEntry_floor (o : Option Chan) (s : State) : (releaseEntry o s).floor = s.floor := by
  unfold releaseEntry
  split
  · split
    · simp [admitParked]
    · rfl
  · rfl

/-- The floor and every channel's state are as they were. -/
structure SameWaits (s t : State) : Prop where
  floor : t.floor = s.floor
  phases : ∀ c, (t.chan c).phase = (s.chan c).phase

theorem WalkedOk_sameWaits {s t : State} (h : WalkedOk s) (k : SameWaits s t) : WalkedOk t :=
  ⟨PostsIdle_of_phases h.1 k.2, by rw [Walked, k.1]; exact h.2⟩

theorem notice_waits (p : List Byte) (s : State) : SameWaits s (notice p s) := ⟨by simp, fun d => by simp⟩

theorem pushHead_waits (f : Frame) (s : State) : SameWaits s (pushHead f s) := ⟨by simp, fun d => by simp⟩

/-- The books of a move end: its notice, the last completed shot and the release of the entry. -/
theorem moveEnd_books (c : Chan) (e : MoveEnd) (s : State) :
    SameWaits s (releaseEntry none ((notice (moveEndBytes c e.cue.shot e.cue.tag e) s).modChan c
      fun ch => { ch with last := some (e.cue.shot, e.outcome) })) where
  floor := by simp
  phases := fun d => by
    rw [releaseEntry_phase, modChan_chan]
    split
    · next h => simp [h]
    · simp

/-! ## What an operation establishes that runs a walk

G stands for what is to hold after the operation: PostsIdle where the walk is left to the frame, WalkedOk where it runs. -/

/-- A property of the floor and of the waiting moves that the given walk establishes. -/
structure WalkGives (G : State → Prop) (w : State → State) : Prop where
  posts : ∀ s, G s → PostsIdle s
  keeps : ∀ s t, G s → PostsIdle t → t.floor = s.floor → G t
  walk : ∀ s, PostsIdle s → G (w s)

theorem WalkGives_id : WalkGives PostsIdle id := ⟨fun _ h => h, fun _ _ _ h _ => h, fun _ h => h⟩

section
variable {G : State → Prop} {w : State → State} (hw : WalkGives G w)
include hw

theorem WalkGives_same {s t : State} (h : G s) (k : SameWaits s t) : G t :=
  hw.keeps s t h (PostsIdle_of_phases (hw.posts s h) k.2) k.1

theorem WalkGives_toPhase {s : State} {p : Phase} (c : Chan) (h : G s) (k : ∀ m, p ≠ .zoneWait m) :
    G (s.modChan c (toPhase p)) := hw.keeps s _ h (PostsIdle_toPhase c (hw.posts s h) k) rfl

theorem settleFloor_gives (c : Chan) (keep : Option (List Zone)) {s : State} (h : G s) : G (settleFloor w c keep s) := by
  unfold settleFloor
  split
  · exact h
  · split
    · exact h
    · exact hw.walk _ (PostsIdle_of_phases (hw.posts s h) fun d => by simp)

/-- Entry into MANUAL_WAIT ends in a walk (R128, R152). -/
theorem enterManualWait_gives (c : Chan) (r : RestState) {s : State} (h : PostsIdle s) : G (enterManualWait w c r s) := by
  refine hw.walk _ (PostsIdle_of_phases (s := s.modChan c fun ch =>
    { toPhase (.manualWait r 0) ch with manualPending := false }) ?_ fun d => by simp)
  exact PostsIdle_modChan h fun m e => by cases e

theorem enterRest_gives (c : Chan) (r : RestState) {s : State} (h : G s) : G (enterRest w c r s) := by
  have k := WalkGives_toPhase hw c h (p := restPhase r) (by cases r <;> simp [restPhase])
  simp only [enterRest]
  split
  · exact enterManualWait_gives hw _ _ (hw.posts _ k)
  · exact k

theorem moveEnd_gives (c : Chan) (e : MoveEnd) (x : MoveExit) {s : State} (h : G s) : G (moveEnd w c e x s) := by
  have k := settleFloor_gives hw c e.keep (WalkGives_same hw h (moveEnd_books c e s))
  cases x with
  | rest r => exact enterRest_gives hw _ _ k
  | fault => exact WalkGives_toPhase hw _ k (by simp)

end

/-! ## The walk (R130) -/

/-- A grant with a walk that is bounded: it leaves the list no longer, and no waiter on it that a walk would grant. -/
theorem takeGrant_walked {n : Nat}
    (ih : ∀ t, PostsIdle t → t.floor.waiters.length < n →
      WalkedOk (walkN n t) ∧ (walkN n t).floor.waiters.length ≤ t.floor.waiters.length)
    {s : State} (x : Waiter) (h : WalkedOk s) (hn : s.floor.waiters.length < n) :
    WalkedOk (takeGrant (walkN n) s x)
      ∧ (takeGrant (walkN n) s x).floor.waiters.length ≤ s.floor.waiters.length := by
  have rest (u : State) (hu : WalkedOk u) (p : Phase) (hp : ∀ m, p ≠ .zoneWait m) :
      WalkedOk (u.modChan x.channel (toPhase p)) := ⟨PostsIdle_toPhase _ hu.1 hp, hu.2⟩
  unfold takeGrant
  split
  · next m e =>
    split
    · have hpost : m.post = .idle := h.1 _ _ e
      simp only [moveEnd, endOf, hpost, enterRest, reduceCtorEq, if_false, decide_false, Bool.false_and,
        Bool.false_eq_true, restPhase]
      have b := WalkedOk_sameWaits h (moveEnd_books x.channel (endOf m .arrived none (some m.shot.rest)) s)
      have bl := (moveEnd_books x.channel (endOf m .arrived none (some m.shot.rest)) s).floor
      simp only [endOf] at b bl
      generalize releaseEntry none _ = u at b bl ⊢
      simp only [settleFloor]
      split
      · exact ⟨rest u b .idle (by simp), by simp [bl]⟩
      · next zs _ =>
        obtain ⟨k1, k2⟩ := ih (freeZones _ u) (PostsIdle_of_phases b.1 fun d => by simp) (by simpa [bl] using hn)
        exact ⟨rest _ k1 .idle (by simp), by simpa [bl] using k2⟩
    · exact ⟨rest s h _ (by simp), by simp⟩
  · refine ⟨rest _ (WalkedOk_sameWaits h ⟨by simp, fun d => by simp⟩) _ (by simp), by simp⟩
  · exact ⟨h, Nat.le_refl _⟩

/-- A walk whose nesting is not cut short leaves no waiter that a walk would grant. -/
theorem walkN_walked (n : Nat) : ∀ s, PostsIdle s → s.floor.waiters.length < n →
    WalkedOk (walkN n s) ∧ (walkN n s).floor.waiters.length ≤ s.floor.waiters.length := by
  induction n with
  | zero => exact fun _ _ h => absurd h (Nat.not_lt_zero _)
  | succ n ih =>
    intro s h hn
    have fold : ∀ (xs : List Waiter) (u : State), WalkedOk u → u.floor.waiters.length < n →
        WalkedOk (xs.foldl (takeGrant (walkN n)) u)
          ∧ (xs.foldl (takeGrant (walkN n)) u).floor.waiters.length ≤ u.floor.waiters.length := by
      intro xs
      induction xs with
      | nil => exact fun u hu _ => ⟨hu, Nat.le_refl _⟩
      | cons x xs ih' =>
        intro u hu hl
        obtain ⟨k1, k2⟩ := takeGrant_walked ih x hu hl
        obtain ⟨j1, j2⟩ := ih' _ k1 (Nat.lt_of_le_of_lt k2 hl)
        exact ⟨j1, Nat.le_trans j2 k2⟩
    have len := walkPass_length s.floor.waiters s.floor.owners []
    have again := walkPass_again s.floor.waiters s.floor.owners []
    simp only [walkN]
    generalize walkPass s.floor.owners [] s.floor.waiters = r at len again ⊢
    have ok : WalkedOk { s with floor := ⟨r.1, r.2.1⟩ } := ⟨h, by rw [Walked, again]⟩
    cases hr : r.2.2 with
    | nil => exact ⟨ok, by simp only [List.foldl_nil]; omega⟩
    | cons x xs =>
      rw [hr, List.length_cons] at len
      obtain ⟨k1, k2⟩ := fold (x :: xs) _ ok (show r.2.1.length < n by omega)
      exact ⟨k1, Nat.le_trans k2 (show r.2.1.length ≤ _ by omega)⟩

/-- After a walk no waiter left on the list would be granted (R130). -/
theorem walk_walked {s : State} (h : PostsIdle s) : WalkedOk (walk s) := (walkN_walked _ s h (Nat.lt_succ_self _)).1

theorem WalkGives_walk : WalkGives WalkedOk walk :=
  ⟨fun _ h => h.1, fun _ _ h k e => ⟨k, by rw [Walked, e]; exact h.2⟩, fun _ h => walk_walked h⟩

/-- A walk that would grant no waiter changes nothing. -/
theorem walk_of_walked {s : State} (h : Walked s) : walk s = s := by
  obtain ⟨h1, h2⟩ := walkPass_none h
  simp only [walk, walkN]
  rw [h, h1, h2]
  rfl

/-! ## The shared operations that run a walk or leave it to their frame -/

/-- A fold of operations that keep a property keeps it. -/
theorem foldl_gives {α : Type} {G : State → Prop} (f : State → α → State) (h : ∀ s x, G s → G (f s x)) (xs : List α) :
    ∀ s, G s → G (xs.foldl f s) := by
  induction xs with
  | nil => exact fun _ k => k
  | cons x xs ih => exact fun s k => ih _ (h s x k)

theorem flushQueue_waits (c : Chan) (s : State) : SameWaits s (flushQueue c s) where
  floor := by
    unfold flushQueue
    have h (qs : List Cue) (u : State) :
        (qs.foldl (fun s q => releaseEntry (some c) (unstarted c q.shot q.tag .flushed s)) u).floor = u.floor := by
      induction qs generalizing u with
      | nil => rfl
      | cons q qs ih => rw [List.foldl_cons, ih]; simp [unstarted]
    rw [h]
    rfl
  phases := fun d => Aside_phase (Aside_flushQueue d c s)

theorem displaceParked_waits (c : Chan) (s : State) : SameWaits s (displaceParked c s) where
  floor := by
    unfold displaceParked
    split
    · rfl
    · simp [unstarted]
  phases := fun d => Aside_phase (Aside_displaceParked d c s)

section
variable {G : State → Prop} {w : State → State} (hw : WalkGives G w)
include hw

/-- A change of a channel that leaves no waiting move with another post-state. -/
theorem WalkGives_modChan {s : State} {c : Chan} {f : Channel → Channel} (h : G s)
    (k : ∀ m, (f (s.chan c)).phase = .zoneWait m → m.post = .idle) : G (s.modChan c f) :=
  hw.keeps s _ h (PostsIdle_modChan (hw.posts s h) k) rfl

theorem takeGrant_gives (x : Waiter) {s : State} (h : G s) : G (takeGrant w s x) := by
  unfold takeGrant
  split
  · split
    · exact moveEnd_gives hw _ _ _ h
    · exact WalkGives_toPhase hw _ h (by simp)
  · exact WalkGives_toPhase hw _ (WalkGives_same hw h ⟨by simp, fun d => by simp⟩) (by simp)
  · exact h

/-- A withdrawal ends in a walk, whatever stood before it (R132). -/
theorem withdrawMove_gives {c : Chan} {m : Move} {o : MoveOutcome} {x : MoveExit} {s : State}
    (hp : ∀ t, PostsIdle t → PostsIdle (w t)) (h : PostsIdle s) : G (withdrawMove w c m o x s) := by
  refine hw.walk _ (moveEnd_gives ⟨fun _ k => k, fun _ _ _ k _ => k, hp⟩ c _ x ?_)
  exact PostsIdle_of_phases h fun d => by simp

theorem enterStopping_gives (c : Chan) (m : Move) (k : StopCause) (p : RestState) {s : State} (h : G s) :
    G (enterStopping w c m k p s) := by
  simp only [enterStopping]
  split
  · exact moveEnd_gives hw _ _ _ h
  · exact WalkGives_modChan hw h (by simp)

/-- A HALT at a channel (R75). -/
theorem haltChannel_gives (hp : ∀ t, PostsIdle t → PostsIdle (w t)) (c : Chan) {s : State} (h : G s) :
    G (haltChannel w c s) := by
  unfold haltChannel
  split
  · exact enterRest_gives hw _ _ h
  · exact withdrawMove_gives hw hp (hw.posts s h)
  · exact enterStopping_gives hw _ _ _ _ h
  all_goals first
    | exact h
    | exact WalkGives_modChan hw h (by simp)

end

theorem walk_posts (t : State) (h : PostsIdle t) : PostsIdle (walk t) := (walk_walked h).1

/-- Entry into FAULT leaves no waiter that a walk would grant (R70, R130). -/
theorem enterFault_walked (c : Chan) (r : FaultReason) {s : State} (h : WalkedOk s) : WalkedOk (enterFault c r s) := by
  have h1 : WalkedOk (endForFault c s) := by
    unfold endForFault
    split
    · exact withdrawMove_gives WalkGives_walk walk_posts h.1
    · exact moveEnd_gives WalkGives_walk _ _ _ h
    · exact moveEnd_gives WalkGives_walk _ _ _ h
    · exact moveEnd_gives WalkGives_walk _ _ _ h
    · have k : WalkedOk (walk (dropWaiter c s)) := walk_walked (PostsIdle_of_phases h.1 fun d => by simp)
      exact WalkGives_toPhase WalkGives_walk _
        (WalkedOk_sameWaits k (pushHead_waits _ _)) (by simp)
    · exact WalkGives_toPhase WalkGives_walk _ h (by simp)
  have same (u : State) (k : WalkedOk u) (f : Channel → Channel) (hf : ∀ x, (f x).phase = x.phase) :
      WalkedOk (u.modChan c f) := ⟨PostsIdle_same k.1 (hf _), k.2⟩
  have h2 (u : State) (k : WalkedOk u) : WalkedOk (if (u.chan c).manualPending then
      sendDeny c 2 (u.modChan c fun ch => { ch with manualPending := false }) else u) := by
    split
    · exact WalkedOk_sameWaits (same u k (fun ch => { ch with manualPending := false }) fun _ => rfl) (pushHead_waits _ _)
    · exact k
  refine WalkedOk_sameWaits (same _ (h2 _ h1) (fun ch => if ch.valid then takeReported ch else ch) fun x => ?_)
    (notice_waits _ _)
  split <;> rfl

/-! ## Field events, and the frames that run a walk -/

/-- A change of a channel that leaves no waiting move with another post-state. -/
theorem WalkedOk_modChan {s : State} {c : Chan} {f : Channel → Channel} (h : WalkedOk s)
    (k : ∀ m, (f (s.chan c)).phase = .zoneWait m → m.post = .idle) : WalkedOk (s.modChan c f) :=
  WalkGives_modChan WalkGives_walk h k

theorem WalkedOk_same {s : State} {c : Chan} {f : Channel → Channel} (h : WalkedOk s)
    (k : (f (s.chan c)).phase = (s.chan c).phase) : WalkedOk (s.modChan c f) := ⟨PostsIdle_same h.1 k, h.2⟩

theorem emit_waits (c : Chan) (f : Frame) (s : State) : SameWaits s (emit c f s) := ⟨by simp, fun d => by simp⟩

theorem moveField_walked (c : Chan) (m : Move) {s : State} (h : WalkedOk s) : WalkedOk (moveField c m s) := by
  have k : WalkedOk (emitProfile c m s) := by
    unfold emitProfile
    exact WalkedOk_modChan (WalkedOk_sameWaits h (emit_waits _ _ _)) (by simp)
  simp only [moveField, completeProfile]
  split
  · split
    · exact WalkedOk_modChan k (by simp)
    · exact moveEnd_gives WalkGives_walk _ _ _ k
  · exact k

/-- The request of a start attempt: the pass over the list with its waiter last, and the handovers of those granted. -/
theorem requestMove_walked {c : Chan} {m : Move} (hm : m.post = .idle) {s : State} (h : PostsIdle s) :
    WalkedOk (requestMove c m s) := by
  have again := walkPass_again (s.floor.waiters ++ [⟨c, .move, m.zones⟩]) s.floor.owners []
  simp only [requestMove]
  generalize walkPass s.floor.owners [] (s.floor.waiters ++ [⟨c, .move, m.zones⟩]) = r at again ⊢
  have h1 : WalkedOk { s with floor := ⟨r.1, r.2.1⟩ } := ⟨h, by rw [Walked, again]⟩
  generalize ({ s with floor := ⟨r.1, r.2.1⟩ } : State) = u at h1 ⊢
  have h2 : WalkedOk (if (r.2.2.any fun w => w.channel == c) = true then u
      else u.modChan c (intoMotion (.zoneWait m))) := by
    split
    · exact h1
    · exact WalkedOk_modChan h1 fun m' e => by
        injection e with e
        rw [← e, hm]
  have h3 := foldl_gives (takeGrant walk) (fun t w k => takeGrant_gives WalkGives_walk w k)
    (r.2.2.filter fun w => w.channel != c) _ h2
  split
  · exact h3
  · split
    · exact moveEnd_gives WalkGives_walk _ _ _ h3
    · exact moveField_walked _ _ (WalkedOk_modChan h3 (by simp))

theorem startAttempt_walked (c : Chan) {s : State} (h : WalkedOk s) : WalkedOk (startAttempt c s) := by
  simp only [startAttempt]
  split
  · exact enterManualWait_gives WalkGives_walk _ _ h.1
  · split
    · exact h
    · split
      · exact h
      · next q qs _ _ =>
        have k : WalkedOk (s.modChan c fun ch => { ch with queue := qs }) := WalkedOk_same h rfl
        split
        · exact moveEnd_gives WalkGives_walk _ _ _ k
        · simp only [resolveMove]
          split
          · exact WalkedOk_same k rfl
          · split
            · exact moveEnd_gives WalkGives_walk _ _ _ k
            · split
              · exact moveEnd_gives WalkGives_walk _ _ _ k
              · exact requestMove_walked rfl k.1

theorem zoneWaitField_walked (c : Chan) (m : Move) (hm : m.post = .idle) {s : State} (h : WalkedOk s) :
    WalkedOk (zoneWaitField c m s) := by
  have k : WalkedOk (s.modChan c fun ch => { ch with phase := .zoneWait { m with waitCount := nextCount m.waitCount } }) :=
    WalkedOk_modChan h fun m' e => by
      injection e with e
      rw [← e, hm]
  simp only [zoneWaitField]
  split
  · exact withdrawMove_gives WalkGives_walk walk_posts k.1
  · exact k

theorem stopField_walked (c : Chan) (m : Move) (st : Stop) {s : State} (h : WalkedOk s) : WalkedOk (stopField c m st s) := by
  have k (f : Frame) := WalkedOk_sameWaits h (emit_waits c f s)
  simp only [stopField]
  split
  · exact moveEnd_gives WalkGives_walk _ _ _ (WalkedOk_modChan (k _) (by simp))
  · exact WalkedOk_modChan (k _) (by simp)

theorem settleField_walked (c : Chan) (m : Move) {s : State} (h : WalkedOk s) : WalkedOk (settleField c m s) := by
  simp only [settleField]
  split
  · exact moveEnd_gives WalkGives_walk _ _ _ (WalkedOk_modChan h (by simp))
  · exact WalkedOk_modChan h (by simp)

theorem jogField_walked (c : Chan) (j : Jog) {s : State} (h : WalkedOk s) : WalkedOk (jogField c j s) := by
  have k (f : Frame) := WalkedOk_sameWaits h (emit_waits c f s)
  simp only [jogField]
  split
  · exact enterRest_gives WalkGives_walk _ _ (WalkedOk_modChan (k _) (by simp))
  · exact WalkedOk_modChan (k _) (by simp)

theorem manualWaitField_walked (c : Chan) (r : RestState) (n : Nat) {s : State} (h : WalkedOk s) :
    WalkedOk (manualWaitField c r n s) := by
  have k : WalkedOk (s.modChan c fun ch => { ch with phase := .manualWait r (nextCount n) }) :=
    WalkedOk_modChan h (by simp)
  have j : WalkedOk (walk (dropWaiter c (s.modChan c fun ch => { ch with phase := .manualWait r (nextCount n) }))) :=
    walk_walked (PostsIdle_of_phases k.1 fun d => by rw [dropWaiter_chan])
  simp only [manualWaitField]
  split
  · exact WalkGives_toPhase WalkGives_walk _ (WalkedOk_sameWaits (WalkedOk_sameWaits j (pushHead_waits _ _))
      (notice_waits _ _)) (by cases r <;> simp [restPhase])
  · exact k

/-- A field event at a channel leaves no waiter that a walk would grant (R62, R130). -/
theorem takeField_walked (c : Chan) {s : State} (h : WalkedOk s) : WalkedOk (takeField c s) := by
  unfold takeField
  split
  · exact h
  · split
    · exact WalkedOk_same h rfl
    · have k : WalkedOk (s.modChan c bookkeep) := WalkedOk_same h rfl
      dsimp only
      generalize s.modChan c bookkeep = u at k ⊢
      split
      · exact enterFault_walked _ _ k
      · unfold fieldWork
        split
        · exact startAttempt_walked _ k
        · next m e => exact zoneWaitField_walked _ _ (k.1 _ _ e) k
        · exact moveField_walked _ _ k
        · exact stopField_walked _ _ _ k
        · exact settleField_walked _ _ k
        · exact jogField_walked _ _ k
        · exact manualWaitField_walked _ _ _ k
        all_goals exact k

/-- A broadcast HALT runs one walk, at its end (R76). -/
theorem haltAll_walked {s : State} (h : PostsIdle s) : WalkedOk (haltAll s) := by
  refine walk_walked (foldl_gives _ (fun t c k => ?_) allChans s h)
  split
  · exact haltChannel_gives WalkGives_id (fun _ k => k) _ k
  · exact k

/-- A TALLY frame runs one walk, at its end (R72). -/
theorem tallyFrame_walked (p : List Byte) {s : State} (h : WalkedOk s) : WalkedOk (tallyFrame p s) := by
  unfold tallyFrame
  split
  · exact h
  · next onAir _ =>
    refine walk_walked (foldl_gives _ (fun t c k => ?_) allChans s h.1)
    simp only [tallyChannel]
    generalize (if onAir c = true then Tally.onAir else Tally.offAir) = v
    split
    · exact k
    · simp only [tallyChange]
      have j : PostsIdle (t.modChan c fun ch => { ch with tally := v }) := PostsIdle_same k rfl
      generalize t.modChan c (fun ch => { ch with tally := v }) = u at j ⊢
      split
      · split
        · exact j
        · exact PostsIdle_modChan (PostsIdle_of_phases j fun d => by simp) (by simp)
      · split
        · exact j
        · exact enterStopping_gives WalkGives_id _ _ _ _ j
      · exact j

/-- A CUT's work on the present move (R90). -/
theorem cutMove_walked (c : Chan) {s : State} (h : WalkedOk s) : WalkedOk (cutMove c s) := by
  unfold cutMove
  split
  · exact enterStopping_gives WalkGives_walk _ _ _ _ h
  · exact withdrawMove_gives WalkGives_walk walk_posts h.1
  · exact h

/-- A POSITION report at a channel (R64 to R66, R117). -/
theorem takePosition_walked (c : Chan) (f : PositionFields) {s : State} (h : WalkedOk s) : WalkedOk (takePosition c f s) := by
  have k : WalkedOk (s.modChan c fun ch => validate f (storeReport f ch)) :=
    WalkedOk_same h (by unfold validate; split <;> rfl)
  simp only [takePosition]
  generalize s.modChan c (fun ch => validate f (storeReport f ch)) = u at k ⊢
  split
  · have j : WalkedOk (u.modChan c fun ch => { ch with followErrors := followCounts f ch }) := WalkedOk_same k rfl
    split
    · exact enterFault_walked _ _ j
    · unfold settleTest
      split
      · split
        · exact moveEnd_gives WalkGives_walk _ _ _ j
        · exact j
      · exact j
  · exact k

/-- A ZONE_GRANT or MANUAL_GRANT finds no waiter to grant once every walk is complete (R130; log entry 4). -/
theorem grantStep_of_walked (k : WaiterKind) (c : Chan) {s : State} (h : Walked s) : grantStep k c s = s := by
  have e : grantable k c s = none := by rw [grantable, h]; rfl
  unfold grantStep
  rw [e]
  split <;> rfl

end Sys2Proof.Machine
end

