-- ==== Sys2Proof/Tests/Slice0.lean ====
section
/-! SUPPORT. The model's own tests: the smoke of WellFormed, values of the manual's worked cases, and for each statement
a concrete state and operands that meet its hypotheses. -/

namespace Sys2Proof.Tests

open Sys2Proof.Machine

set_option Elab.async false

/-! ## Small states -/

/-- A mapped channel at link address 7, IDLE, with a valid position. -/
def camera : Channel :=
  { Channel.powerOn with config := { CameraConfig.reset with link := 7 }, phase := .idle, valid := true }

/-- The part with channel 3 as given and nothing else mapped. -/
def rig (ch : Channel) : State := State.reset.setChan 3 ch

/-- The part with channel 3 in a state. -/
def inPhase (p : Phase) : State := rig { camera with phase := p }

/-- The same with a field event due to channel 3. -/
def due (p : Phase) : State := rig { camera with phase := p, fieldDue := true }

/-- The part with every entry of the Outbound Queue taken. -/
def full (s : State) : State := { s with out := ⟨List.replicate 32 ⟨⟨0, 30, 0x41, []⟩, none⟩, 0, false⟩ }

/-- A frame from the controller to channel 3, to the part, and from channel 3's head. -/
def toCam (payload : List Byte) : Msg := ⟨7, 0, payload⟩
def toPart (payload : List Byte) : Msg := ⟨30, 0, payload⟩
def fromCam (payload : List Byte) : Msg := ⟨0, 7, payload⟩

/-- The state an outcome leaves. -/
def after : Host.Outcome State Fault Refusal → State
  | .next t => t
  | _ => State.reset

/-- A shot of channel 3 with one target, route zone 4 and rest zone 5. -/
def shot : Shot :=
  { channel := 3, number := 41, live := false, targets := { PerAxis.all none with pan := some 3000 }, ease := some 10,
    duration := none, route := [4], rest := [5] }

/-- A cue of that shot. -/
def cue : Cue := ⟨41, 0x1234#16, none, 0⟩

/-- The move of that cue from position 0. -/
def move : Move := planMove camera cue shot false

/-- A move with no distance. -/
def stay : Move := { move with dur := 0, dist := .all 0, target := move.start, stretched := false }

/-- The stop of that move after field 20. -/
def ramp : Stop := formStop camera.limits { move with field := 20 } .halted

/-- A jog of PAN at its demand. -/
def jog : Jog := ⟨{ PerAxis.all none with pan := some ⟨30, 30⟩ }, 0, .idle⟩

/-- The part with that shot stored. -/
def stored (s : State) : State := { s with shots := [shot] }

/-- A call of that shot. -/
def callOf (mode : Byte) : Msg := toCam [0, 41, mode, 0x12, 0x34, 0, 0]

/-! ## Well-formed commands: one ill-formed command for each check -/

theorem test_wf_accepts : wellFormed (.halt (toCam [])) = true ∧ wellFormed (.broadcastHalt ⟨31, 0, []⟩) = true
    ∧ wellFormed (.callQueue (callOf 0)) = true ∧ wellFormed (.cut (callOf 2)) = true := by decide
theorem test_wf_destination : wellFormed (.query ⟨32, 0, []⟩) = false := by decide
theorem test_wf_source : wellFormed (.position ⟨0, 32, [0, 0]⟩) = false := by decide
theorem test_wf_payload : wellFormed (.tally (toPart (List.replicate 97 0))) = false := by decide
theorem test_wf_frame_destination : wellFormed (.forwardUpstream ⟨32, 0, 0x70, []⟩) = false := by decide
theorem test_wf_frame_source : wellFormed (.forwardDownstream ⟨0, 32, 0x70, []⟩) = false := by decide
theorem test_wf_frame_payload : wellFormed (.forwardDownstream ⟨0, 0, 0x70, List.replicate 97 0⟩) = false := by decide
theorem test_wf_no_bytes : wellFormed (.candidateDiscard .head []) = false := by decide
theorem test_wf_queue_of_next : wellFormed (.callQueue (callOf 1)) = false := by decide
theorem test_wf_queue_of_cut : wellFormed (.callQueue (callOf 2)) = false := by decide
theorem test_wf_next_of_queue : wellFormed (.callNext (callOf 0)) = false := by decide
theorem test_wf_cut_of_next : wellFormed (.cut (callOf 1)) = false := by decide
theorem test_wf_halt_broadcast : wellFormed (.halt ⟨31, 0, []⟩) = false := by decide
theorem test_wf_broadcast_halt_address : wellFormed (.broadcastHalt (toCam [])) = false := by decide
theorem test_wf_read_with_next : wellFormed (.shotRead (toPart [3, 0, 1, 1])) = false := by decide
theorem test_wf_next_without_flag : wellFormed (.shotReadNext (toPart [3, 0, 1, 0])) = false := by decide
theorem test_wf_bad_kind : wellFormed (.badKindFrame ⟨30, 0, 0x2C, []⟩) = false := by decide
theorem test_wf_pulse_takers : wellFormed (.referencePulse 5 [.headPort, .headPort]) = false := by decide
theorem test_wf_expiry_takers : wellFormed (.flywheelTimerExpiry [.channel 2, .channel 2]) = false := by decide

/-! ## Worked cases of the manual -/

/-- 10.2: the check of the nine characters "123456789" is 29B1h. -/
theorem test_check : crc16 [0x31, 0x32, 0x33, 0x34, 0x35, 0x36, 0x37, 0x38, 0x39] = 0x29B1#16 := by decide +kernel

/-- 3.9: channel 4 before the pan and track move. -/
def panTrack : Channel :=
  { camera with
    commanded := ⟨1000, 0, 0, 0, 0, 40000⟩
    limits := { PerAxis.all Limits.reset with
      pan := { Limits.reset with vmax := 600, amax := 40, astop := 60, vlive := 120, alive := 5 }
      travel := { Limits.reset with vmax := 1500, amax := 60, astop := 100, vlive := 300, alive := 10 } } }
def panTrackShot : Shot :=
  { channel := 4, number := 1, live := true,
    targets := { PerAxis.all none with pan := some 10000, travel := some 10000 }, ease := some 10, duration := none,
    route := [], rest := [] }
def panTrackMove (override : Option Nat) (live : Bool) : Move :=
  planMove panTrack ⟨1, 0, override, 0⟩ panTrackShot live

/-- 3.9: T, W, Q and STRETCHED for each override, and T of the LIVE move. -/
theorem test_duration : (panTrackMove none false).dur = 60 ∧ (panTrackMove none false).w = 50
    ∧ (panTrackMove none false).q = 1000 ∧ (panTrackMove (some 45) false).dur = 60
    ∧ (panTrackMove (some 45) false).stretched = true ∧ (panTrackMove (some 60) false).stretched = false
    ∧ (panTrackMove (some 80) false).dur = 80 ∧ (panTrackMove none true).dur = 310 := by decide +kernel

/-- 3.9: positions of the move, and with the override of 80 the rounded position of field 1. -/
theorem test_positions :
    [1, 5, 10, 29, 30, 50, 55, 60].map (profilePos (panTrackMove none false) .pan)
      = [1009, 1225, 1900, 5320, 5500, 9100, 9775, 10000]
    ∧ [1, 5, 10, 29, 30, 50, 55, 60].map (profilePos (panTrackMove none false) .travel)
      = [39970, 39250, 37000, 25600, 25000, 13000, 10750, 10000]
    ∧ profilePos (panTrackMove (some 80) false) .pan 1 = 1006
    ∧ profilePos (panTrackMove (some 80) false) .travel 1 = 39979 := by decide +kernel

/-- 3.9: rounding ties go away from zero. -/
theorem test_rounding_ties : profileRound 2500 1000 = 3 ∧ profileRound (-2500) 1000 = -3 := by decide

/-- 3.9: dither of field 4 to 5. -/
theorem test_dither : dither 1144 1225 = [1165, 1185, 1205, 1225] ∧ dither 39520 39250 = [39452, 39384, 39317, 39250] := by
  decide +kernel

/-- 3.9: the stop ramp of a HALT after field 30. -/
theorem test_stop_ramp :
    let st := formStop panTrack.limits { panTrackMove none false with field := 30 } .halted
    st.rs = 6 ∧ [1, 2, 3, 4, 5, 6].map (stopPos Limits.reset st .pan) = [5665, 5800, 5905, 5980, 6025, 6040]
      ∧ [1, 2, 3, 4, 5, 6].map (stopPos Limits.reset st .travel) = [24450, 24000, 23650, 23400, 23250, 23200] := by
  decide +kernel

/-- 3.9: a jog against the end of travel. -/
theorem test_jog_stop :
    let l := { Limits.reset with maxPos := 10050, amax := 30 }
    jogStep l .offAir 10000 ⟨30, 0⟩ = (10030, ⟨30, 30⟩) ∧ jogStep l .offAir 10030 ⟨30, 30⟩ = (10050, ⟨30, 0⟩)
      ∧ jogStep l .offAir 10050 ⟨-30, 0⟩ = (10020, ⟨-30, -30⟩) := by decide +kernel

/-- Chapter 1: channel 6 of the VERIFY example. -/
def six : State :=
  let ch : Channel :=
    { camera with
      config := { camera.config with mask := ⟨true, true, true, true, true, false⟩ }
      limits := { PerAxis.all Limits.reset with
        pan := { Limits.reset with minPos := -200000, maxPos := 200000 }
        zoom := { Limits.reset with minPos := 0, maxPos := 65000 } } }
  let none6 : PerAxis (Option Int) := .all none
  { State.reset.setChan 6 ch with shots := [
      ⟨6, 10, false, { none6 with pan := some 40000, tilt := some (-3000) }, some 8, some 40, [2], [3]⟩,
      ⟨6, 12, false, { none6 with pan := some 150000, zoom := some 30000 }, none, some 20, [], []⟩,
      ⟨6, 15, false, { none6 with zoom := some 70000 }, some 12, some 20, [], []⟩,
      ⟨6, 20, false, { none6 with pan := some 0, travel := some 12000 }, none, none, [3], [5]⟩,
      ⟨6, 31, false, { none6 with tilt := some 1500 }, some 6, some 12, [1], [4]⟩] }

/-- Chapter 1: the six requests of the VERIFY example. -/
theorem test_verify :
    verifyAnswer [6, 0, 1, 0, 0] six = reply .failed [6, 0, 15, 2, 0, 3]
    ∧ verifyAnswer [6, 0, 16, 0, 2] six = reply .failed [6, 0, 20, 1, 0, 2]
    ∧ verifyAnswer [6, 0, 21, 0, 5] six = reply .okShort [6, 0, 0, 0, 0, 1]
    ∧ verifyAnswer [6, 0, 10, 0, 2] six = reply .ok [6, 0, 0, 0, 0, 0]
    ∧ verifyAnswer [6, 0, 32, 0, 0] six = reply .ok [6, 0, 0, 0, 0, 0]
    ∧ verifyAnswer [6, 0, 32, 0, 3] six = reply .okShort [6, 0, 0, 0, 0, 0] := by decide +kernel

/-- 2.7: a LIMIT WRITE to a moving channel is deferred, with vlive clamped to vmax. -/
theorem test_limit_deferred :
    let payload := [3, 1] ++ be24 (-90000) ++ be24 90000 ++ be16 250 ++ be16 12 ++ be16 300 ++ be16 3 ++ be16 30
      ++ be16 2000 ++ be16 50
    let t := after (exec (.limitWrite (toPart payload)) (inPhase (.moving move)))
    (t.chan 3).limits.tilt = Limits.reset ∧ (t.chan 3).pendingLimits.tilt = some ⟨-90000, 90000, 250, 12, 250, 3, 30, 2000, 50⟩
      ∧ t.out.entries = [⟨⟨0, 30, 0x40, [0x25, 0x02, 3, 1, 1]⟩, none⟩] := by decide +kernel

/-- 7.8: the walks before and after channel 2 releases zone 4. -/
def walkers : List Waiter := [⟨5, .move, [3, 4]⟩, ⟨7, .move, [3, 6]⟩, ⟨9, .move, [6]⟩]
def owned (cs : List (Zone × Chan)) : Vector (Option Chan) 24 :=
  cs.foldl (fun o x => o.set x.1.val (some x.2) x.1.isLt) (Vector.replicate 24 none)
theorem test_walk :
    walkPass (owned [(4, 2), (8, 2)]) [] walkers = (owned [(4, 2), (8, 2)], walkers, [])
    ∧ walkPass (owned [(8, 2)]) [] walkers
      = (owned [(3, 5), (4, 5), (8, 2)], walkers.drop 1, walkers.take 1)
    ∧ walkPass (owned [(3, 5), (8, 2)]) [] [⟨9, .move, [6]⟩] = (owned [(3, 5), (6, 9), (8, 2)], [], [⟨9, .move, [6]⟩]) := by
  decide +kernel

/-- 9.7: the lock at pulse 8, the first pulse after it, the glitch and the loss. -/
def windowAt8 : State :=
  { State.reset with monitor := { State.reset.monitor with
      state := .acquire, now := 180000, flywheelAt := 200000, lastFieldAt := 180000, window := some ⟨50000, 7⟩ } }
def locked : State := after (exec (.referencePulse 183468 []) windowAt8)
def beating : State := after (exec (.referencePulse 200151 allTakers) locked)
theorem test_lock : locked.monitor.state = .locked ∧ locked.monitor.heldPeriod = 16684 ∧ locked.monitor.flywheelAt = 200652
    ∧ beating.monitor.flywheelAt = 217335 ∧ after (exec (.referencePulse 205000 []) beating)
      = { beating with monitor := { beating.monitor with now := 205000 } } := by decide +kernel
theorem test_loss :
    let t := after (exec (.flywheelTimerExpiry []) (after (exec (.referencePulse 216835 allTakers) beating)))
    t.monitor.now = 234019 ∧ t.monitor.state = .flywheel ∧ t.monitor.flywheelAt = 250703
      ∧ t.out.entries.getLast? = some ⟨⟨0, 30, 0x41, [3, 0xFF, 3, 0x41, 0x2C]⟩, none⟩ := by decide +kernel

/-- 4.13: the third excess in a row at TILT faults the channel and takes its positions from the report. -/
def following : State :=
  rig { camera with
    phase := .moving move
    limits := { PerAxis.all Limits.reset with tilt := { Limits.reset with follow := 500 } }
    followErrors := { PerAxis.all 0 with tilt := 2 }
    history := { PerAxis.all (History.fill 0) with tilt := #v[640, 640, 640, 640, 360, 160, 40, 0] } }
theorem test_follow_fault :
    let t := after (exec (.position (fromCam ([0, 2] ++ be24 (-320)))) following)
    (t.chan 3).phase = .fault ∧ (t.chan 3).commanded.tilt = -320 ∧ (t.chan 3).history.tilt = History.fill (-320)
      ∧ t.out.entries.map (fun e => e.first.payload)
        = [[1, 3, 0x12, 0x34, 0, 41, 12, 0, 0, 40, 0], [2, 3, 1, 1, 1]] := by decide +kernel

/-- 8.5: a jog of TILT, its first two fields and the deadman. -/
def tiltJog (demand velocity : Int) (age : Nat) (position : Int) : State :=
  rig { camera with
    phase := .jogging ⟨{ PerAxis.all none with tilt := some ⟨demand, velocity⟩ }, age, .idle⟩
    limits := { PerAxis.all Limits.reset with tilt := { Limits.reset with vmax := 200, amax := 20 } }
    commanded := { PerAxis.all 0 with tilt := position }
    fieldDue := true }
theorem test_jog_field :
    let t := takeField 3 (tiltJog 50 0 0 1000)
    (t.chan 3).commanded.tilt = 1020
      ∧ (t.link.batch.get 3).map (fun x => x.frame.payload)
        = some ([2, 2] ++ be24 1005 ++ be24 1010 ++ be24 1015 ++ be24 1020) := by decide +kernel
theorem test_jog_deadman :
    let t := after (exec (.jogDeadman 3) (tiltJog 50 50 7 1310))
    (t.chan 3).commanded.tilt = 1340
      ∧ (t.chan 3).phase = .jogging ⟨{ PerAxis.all none with tilt := some ⟨0, 30⟩ }, 8, .idle⟩ := by decide +kernel
theorem test_jog_end :
    let t := after (exec (.jogEnd 3) (tiltJog 0 10 8 1350))
    (t.chan 3).phase = .idle ∧ (t.chan 3).commanded.tilt = 1350 := by decide +kernel

/-- 5.9: step 8, a CUT at channel 7 releases its queue in the order of admission. -/
def pool : State :=
  let seven : Channel :=
    { camera with phase := .held, queue := [⟨41, 704, none, 3⟩, ⟨41, 701, none, 0⟩, ⟨41, 702, none, 1⟩, ⟨41, 703, none, 2⟩] }
  let five : Channel := { camera with
    config := { camera.config with link := 6 }
    queue := [⟨41, 502, none, 0⟩, ⟨41, 504, none, 1⟩]
    nextRank := 2
    parked := some ⟨41, 505, none, .next⟩ }
  { (State.reset.setChan 7 seven).setChan 5 five with
    poolFree := 0, parkOrder := [5], shots := [{ shot with channel := 7 }] }
theorem test_cut_releases_by_rank :
    let t := after (exec (.cut (toCam [0, 41, 2, 0x02, 0xC2, 0, 0])) pool)
    (t.chan 7).queue.map Cue.tag = [706] ∧ (t.chan 5).queue.map Cue.tag = [505, 502, 504] ∧ t.poolFree = 2
      ∧ t.out.entries.map (fun e => (e.first.kind, e.first.payload.drop 2 |>.take 3))
        = [(0x41, [2, 0xBD, 0]), (0x41, [2, 0xBE, 0]), (0x41, [2, 0xBF, 0]), (0x41, [2, 0xC0, 0]), (0x40, [7, 2, 0xC2])] := by
  decide +kernel

/-- 8.6: the release after a handover takes the reported positions and enters the return state. -/
theorem test_manual_release :
    let s := rig { camera with phase := .manual .held, reported := ⟨12400, -2150, 0, 0, 0, 0⟩ }
    let t := after (exec (.manualRelease (fromCam [])) s)
    (t.chan 3).phase = .held ∧ (t.chan 3).commanded.pan = 12400 ∧ (t.chan 3).history.tilt = History.fill (-2150)
      ∧ t.out.entries = [⟨⟨0, 30, 0x41, [2, 3, 3, 1, 0]⟩, none⟩] := by decide +kernel

/-- 10.9: the unsent setpoint of the lowest channel goes first, then the head control list, then the forward queue. -/
def sending : State :=
  { State.reset with link := { State.reset.link with
      reached := true
      batch := (Batch.empty.set 7 (some ⟨⟨8, 30, 0x50, [0]⟩, false⟩)).set 2 (some ⟨⟨3, 30, 0x50, [2]⟩, false⟩)
      headControl := [⟨7, 30, 0x51, []⟩]
      downstream := [⟨20, 0, 0x70, []⟩] } }
def boundaries : Nat → State
  | 0 => sending
  | n + 1 => after (exec .headPortFrameBoundary (boundaries n))
theorem test_head_port_order :
    [1, 2, 3, 4, 5].map (fun n => (boundaries n).link.headLine.map Frame.dest) = [some 3, some 8, some 7, some 20, none] := by
  decide +kernel

/-- R161, R192: the notice of a first pulse is queued, and is sent only after a frame has reached the part, here one with a
source above 31 that is discarded. -/
theorem test_quiet_until_a_frame :
    let s := after (exec (.referencePulse 50 []) State.reset)
    let t := after (exec (.forwardUpstream ⟨0, 32, 0x70, []⟩) s)
    s.out.entries = [⟨⟨0, 30, 0x41, [3, 0xFF, 1, 0x4E, 0x20]⟩, none⟩] ∧ after (exec .controlPortFrameBoundary s) = s
      ∧ t.out = s.out ∧ (after (exec .controlPortFrameBoundary t)).link.controlLine
        = some ⟨0, 30, 0x41, [3, 0xFF, 1, 0x4E, 0x20]⟩ := by decide +kernel

/-- 11.7: the answer of PART QUERY after power-on with the straps at 9. -/
theorem test_part_query :
    (after (exec (.partQuery ⟨9, 0, []⟩) (State.powerOn 9))).out.entries
      = [⟨⟨0, 9, 0x40, [0x2B, 0, 0x0B, 0x06, 0x12, 1, 9, 0, 0x4E, 0x20, 64, 0, 0, 0]⟩, none⟩] := by decide +kernel

/-- 11.7: the field that completes the move of channel 0 ends it ARRIVED, with T used 14. -/
theorem test_profile_complete :
    let ch : Channel := { camera with limits := { PerAxis.all Limits.reset with
      pan := ⟨-100000, 100000, 50, 10, 20, 2, 20, 0, 0⟩ } }
    let m := planMove ch ⟨5, 77, none, 0⟩
      ⟨3, 5, false, { PerAxis.all none with pan := some 400 }, some 4, none, [], []⟩ false
    let t := after (exec (.profileComplete 3) (rig { ch with phase := .moving { m with field := 13 }, fieldDue := true }))
    m.dur = 14 ∧ (t.chan 3).phase = .idle ∧ (t.chan 3).commanded.pan = 400
      ∧ t.out.entries = [⟨⟨0, 30, 0x41, [1, 3, 0, 77, 0, 5, 1, 0, 0, 14, 0]⟩, none⟩] := by decide +kernel

/-- R171: a candidate whose length byte is 97, and one whose check does not match, are discarded; the hunt resumes
after their A5h and the HALT frame that follows is received. -/
theorem test_candidate_discard :
    let t := after (exec (.candidateDiscard .control ([0xA5, 1, 2, 3, 97] ++ frameBytes ⟨7, 0, 0x12, []⟩)) (inPhase .idle))
    let u := after (exec (.candidateDiscard .control ([0xA5, 1, 2, 3, 0, 0, 0] ++ frameBytes ⟨7, 0, 0x12, []⟩))
      (inPhase .idle))
    (t.chan 3).phase = .held ∧ t.link.controlRx = [] ∧ (u.chan 3).phase = .held ∧ u.link.controlRx = [] := by
  decide +kernel

/-! ## States and operands that meet the hypotheses of the statements -/

theorem witness_EmptyQueueStepFinishesFieldEvent :
    let s := { State.reset with monitor := { State.reset.monitor with headDue := true } }
    let t (c : Chan) := State.reset.setChan c { camera with fieldDue := true }
    (s.pending = [] ∧ s.resetHeld = false ∧ s.monitor.headDue = true)
      ∧ (∀ c ∈ [(0 : Chan), 15], (t c).pending = [] ∧ (t c).resetHeld = false ∧ (t c).monitor.headDue = false
          ∧ ((t c).chan c).fieldDue = true ∧ ∀ d, d < c → ((t c).chan d).fieldDue = false)
      ∧ (State.reset.pending = [] ∧ State.reset.monitor.headDue = false ∧ ∀ c, (State.reset.chan c).fieldDue = false) := by
  decide +kernel

theorem witness_ResetPinHoldsPartAndReleaseInitialisesEveryBlock :
    (after (exec .resetPinAssert State.reset)).resetHeld = true ∧ (Instr.zoneGrant 3 ≠ .resetPinAssert)
      ∧ ∀ straps, Instr.zoneGrant 3 ≠ .powerOnReset straps := ⟨by decide +kernel, by decide, fun _ h => by cases h⟩

theorem witness_WrongLengthsAndStrayAddressesChangeNothing :
    let s := inPhase .idle
    (s.resetHeld = false ∧ 31 < (⟨32, 0, []⟩ : Msg).dest.toNat ∧ 31 < (⟨0, 32, []⟩ : Msg).source.toNat)
      ∧ (∀ k ∈ [(0x22 : Byte), 0x23, 0x24, 0x26, 0x28, 0x29, 0x2A, 0x2B, 0x2C],
          AtPart s (toPart [0, 0, 0, 0, 0, 0]) k ∧ [(0 : Byte), 0, 0, 0, 0, 0].length ≠ 0)
      ∧ (∀ k ∈ [(0x12 : Byte), 0x13, 0x14, 0x15, 0x16], AtCamera s (toCam [0]) k 3 ∧ s.outFree ≠ 0)
      ∧ (Receivable s ((toPart [0]).frame 0x20) ∧ (toPart [0]).dest = s.partAddress)
      ∧ (AtCamera s (toCam [0x40]) 0x11 3 ∧ 64 ≤ (0x40 : Byte).toNat
          ∧ AtCamera s (toCam [1, 0, 0]) 0x11 3 ∧ [(0 : Byte), 0].length ≠ 3 * 1)
      ∧ (∀ k ∈ [(0x60 : Byte), 0x61, 0x62, 0x63], Receivable s ((fromCam [0, 1]).frame k)
          ∧ Receivable s ((⟨0, 9, []⟩ : Msg).frame k) ∧ s.channelAt 9 = none) :=
  ⟨by decide +kernel, by decide +kernel, by decide +kernel, by decide +kernel, by decide +kernel, by decide +kernel⟩

theorem witness_AnsweredFrameWithoutEntryIsDiscarded :
    let s := full (inPhase .idle)
    (∀ k ∈ [(0x00 : Byte), 0x7F], Receivable s ⟨30, 0, k, []⟩ ∧ s.outFree = 0 ∧ (30 : Byte) = s.partAddress
        ∧ k ≠ partCode .tally ∧ k.toNat < 0x80)
      ∧ ∀ k ∈ [(0x10 : Byte), 0x16], Receivable s ⟨7, 0, k, []⟩ ∧ s.outFree = 0 ∧ (7 : Byte) ≠ s.partAddress
        ∧ s.channelAt 7 = some 3 ∧ 0x10 ≤ k.toNat ∧ k.toNat ≤ 0x16 ∧ k ≠ cameraCode .jog := by decide +kernel

/-- The payload of a SHOT WRITE of that shot under a shot number. -/
def shotPayload (n : Nat) : List Byte := shotBytes { shot with number := n }

theorem witness_ShotWriteStoresOrRefusesRecord :
    (∀ n ∈ [1, 41, 999], AtPart (stored State.reset) (toPart (shotPayload n)) (partCode .shotWrite)
        ∧ DirectoryOk (stored State.reset) ∧ (readShot (shotPayload n)).bind shotOf = some { shot with number := n }
        ∧ (stored State.reset).shots.length < 512)
      ∧ ((stored State.reset).findShot 3 41).isSome = true
      ∧ readShot [3, 0, 1, 0, 0, 0] = none ∧ readShot [3, 0, 1, 0, 0x40, 0, 0] = none
      ∧ (∀ payload ∈ [[16, 0, 1, 0, 0, 0, 0], [3, 0, 0, 0, 0, 0, 0], [3, 0x03, 0xE8, 0, 0, 0, 0], [3, 0, 1, 8, 0, 0, 0],
          [3, 0, 1, 2, 0, 0, 0, 0], [3, 0, 1, 4, 0, 0, 1, 0, 0], [3, 0, 1, 4, 0, 0x10, 0x00, 0, 0],
          [3, 0, 1, 0, 0, 0, 5, 0, 1, 2, 3, 4], [3, 0, 1, 0, 0, 0, 1, 24], [3, 0, 1, 0, 0, 2, 4, 4, 0]],
          (readShot payload).isSome = true ∧ (readShot payload).bind shotOf = none)
      ∧ ({ State.reset with shots := List.replicate 512 shot }.findShot 3 1 = none
          ∧ 512 ≤ (List.replicate 512 shot).length) := by decide +kernel

theorem witness_ShotEraseRemovesOneRecord :
    let s := stored State.reset
    (∀ payload ∈ [[(16 : Byte), 0, 1], [3, 0, 0], [3, 0x03, 0xE8], [3, 0, 1], [3, 0, 41]],
        AtPart s (toPart payload) (partCode .shotErase) ∧ DirectoryOk s)
      ∧ u16 0 0 = 0 ∧ 999 < u16 0x03 0xE8 ∧ chanOf 3 = some 3
      ∧ (u16 0 1 ≠ 0 ∧ s.findShot 3 (u16 0 1) = none) ∧ (s.findShot 3 (u16 0 41)).isSome = true := by decide +kernel

theorem witness_ShotReadAnswersExactKeyOrSmallestAbove :
    let s := stored State.reset
    (∀ n ∈ [(0 : Byte), 1], ∀ lo ∈ [(0 : Byte), 1, 41, 42], AtPart s (toPart [3, 0, lo, n]) (partCode .shotRead))
      ∧ DirectoryOk s ∧ chanOf 3 = some 3 ∧ s.findShot 3 (u16 0 1) = none ∧ s.findShot 3 (u16 0 41) = some shot
      ∧ (∀ r ∈ s.shots, r.channel = 3 → r.number < u16 0 42)
      ∧ (shot ∈ s.shots ∧ shot.channel = 3 ∧ u16 0 41 ≤ shot.number
          ∧ ∀ x ∈ s.shots, x.channel = 3 → u16 0 41 ≤ x.number → shot.number ≤ x.number)
      ∧ (∀ p ∈ [[(16 : Byte), 0, 1, 0], [15, 0, 0, 0], [15, 3, 0xE8, 0], [15, 3, 0xE7, 2], [16, 0, 1, 1], [15, 0, 0, 1],
          [15, 3, 0xE8, 1]], AtPart s (toPart p) (partCode .shotRead))
      ∧ (16 ≤ (16 : Byte).toNat ∧ u16 0 0 = 0 ∧ 999 < u16 3 0xE8 ∧ u16 3 0xE7 ≤ 999 ∧ 1 < (2 : Byte).toNat) := by
  decide +kernel

theorem witness_VerifyAnswersFirstFailure :
    let held := six.shots.filter fun r => r.channel == 6 && u16 0 1 ≤ r.number
    (∀ n ∈ [(0 : Byte), 5], AtPart six (toPart [6, 0, 1, 0, n]) (partCode .verify)) ∧ chanOf 6 = some 6
      ∧ held = held.take 2 ++ held[2] :: held.drop 3
      ∧ (∀ x ∈ held.take 2, checkShot (six.chan 6) x = .none) ∧ checkShot (six.chan 6) held[2] ≠ .none
      ∧ (∀ x ∈ held.take 2, checkShot (six.chan 6) x = .none) ∧ u16 0 2 ≤ held.length ∧ held.length < u16 0 6
      ∧ (∀ p ∈ [[(16 : Byte), 0, 1, 0, 0], [6, 0, 0, 0, 0], [6, 3, 0xE8, 0, 0], [6, 3, 0xE7, 3, 0xE8]],
        AtPart six (toPart p) (partCode .verify)) ∧ u16 0 0 = 0 ∧ 999 < u16 3 0xE8 ∧ u16 3 0xE7 ≤ 999 := by
  decide +kernel

theorem witness_StoredRecordsReadBackAsWritten : ShotOk shot ∧ LimitRangeOk Limits.reset ∧ ConfigOk camera.config :=
  ⟨⟨by decide, by decide, by decide, by decide, by decide, by decide, by decide, by decide, fun a t h => by
    cases a <;> simp [shot, PerAxis.all, PerAxis.get, Config.positionMin, Config.positionMax] at h ⊢; omega⟩,
    by decide, by decide⟩

/-- A LIMIT WRITE payload for (3, TILT). -/
def limitPayload (axis : Byte) (lo hi : Int) (vlive : Nat) : List Byte :=
  [3, axis] ++ be24 lo ++ be24 hi ++ be16 250 ++ be16 12 ++ be16 vlive ++ be16 3 ++ be16 30 ++ be16 0 ++ be16 0

theorem witness_LimitWriteStoresClampedRecord :
    AtPart State.reset (toPart (limitPayload 1 0 1 251)) (partCode .limitWrite)
      ∧ AtPart State.reset (toPart [3, 1]) (partCode .limitWrite)
      ∧ (readLimit (limitPayload 1 0 1 251)).map (fun f => (f.limits.minPos, f.limits.maxPos, f.limits.vlive))
        = some (0, 1, 251)
      ∧ (readLimit (limitPayload 1 1 1 0)).map (fun f => (f.limits.minPos, f.limits.maxPos, f.limits.vlive))
        = some (1, 1, 0)
      ∧ chanOf 3 = some 3 ∧ Axis.ofNumber 5 = some .travel ∧ Axis.ofNumber 6 = none
      ∧ inMotion (State.reset.chan 3).phase = false ∧ inMotion ((inPhase (.moving move)).chan 3).phase = true := by
  decide +kernel

theorem witness_LimitReadAndCameraReadAnswerRecords :
    (∀ payload ∈ [[(15 : Byte), 5], [16, 0], [0, 6]], AtPart State.reset (toPart payload) (partCode .limitRead))
      ∧ chanOf 15 = some 15 ∧ Axis.ofNumber 5 = some .travel
      ∧ ∀ b ∈ [(15 : Byte), 16], AtPart State.reset (toPart [b]) (partCode .cameraRead) := by decide +kernel

theorem witness_ProfileRoundingIsNearestHalvesAway : 0 < 1000 ∧ 500 < 1000 ∧ (-2500 : Int).natAbs = 2 * 1000 + 500 := by
  decide

theorem witness_PlannedMoveTakesShotAndLongestDuration :
    let m := panTrackMove none false
    (∀ a, ¬((planMove camera cue { shot with targets := .all none } false).moved.get a = true)) ∧ m.moved.travel = true
      ∧ m.dist.travel ≠ 0 ∧ 10 + max (ceilDiv 30000 1500) (ceilDiv 30000 600) = 60
      ∧ ceilDiv 9000 600 ≤ 50 ∧ ceilDiv 9000 400 ≤ 50
      ∧ (move.moved.get .pan = true ∧ shot.targets.get .pan = some 3000 ∧ move.moved.get .tilt = false)
      ∧ (planMove { camera with limits := .all { Limits.reset with maxPos := 2999 } } cue shot false).clamped = true
      ∧ shot.route.Nodup ∧ shot.rest.Nodup :=
  ⟨fun a => by cases a <;> decide, by decide +kernel⟩

theorem witness_ProfileNumeratorRisesFromZeroToQ : 1 ≤ 10 ∧ 2 * 10 ≤ 20 ∧ 10 ≤ 20 - 10 ∧ 0 < 10 ∧ 19 < 20 := by decide

theorem witness_ProfileRunsFromStartToTarget :
    let m := panTrackMove none false
    ShapedMove m ∧ m.target.get .travel = m.start.get .travel + m.dist.get .travel ∧ m.dist.get .travel ≤ 0
      ∧ m.target.get .pan = m.start.get .pan + m.dist.get .pan ∧ 0 ≤ m.dist.get .pan := by decide +kernel

theorem witness_ProfileIncrementsKeepRates :
    let m := panTrackMove none false
    1 ≤ m.ease ∧ (∀ b, 1 ≤ (rates (panTrack.limits.get b) false).1 ∧ 1 ≤ (rates (panTrack.limits.get b) false).2)
      ∧ m.moved.get .pan = true ∧ m.dur ≠ 0 :=
  ⟨by decide +kernel, fun b => by cases b <;> decide, by decide +kernel, by decide +kernel⟩

theorem witness_StopRampStepsStayInTravelAndEndAtHalfVelocity :
    ({ move with field := 20 } : Move).moved.get .pan = true ∧ Limits.reset.minPos ≤ Limits.reset.maxPos ∧ 0 < ramp.rs
      ∧ (0 < 1 ∧ 1 ≤ ramp.rs) ∧ ramp.vel.get .tilt = 0 := by
  decide +kernel

theorem witness_JogStepFollowsDemandAndStopsAtTravel :
    let l := { Limits.reset with minPos := -50, maxPos := 50 }
    l.minPos ≤ l.maxPos ∧ (50 ≤ l.maxPos ∧ l.maxPos < 50 + 10) ∧ (l.minPos ≤ -50 ∧ -50 - 10 < l.minPos) ∧ l.maxPos < 51
      ∧ -51 < l.minPos := by decide

/-- A CAMERA WRITE payload for channel 3. -/
def cameraPayload (link queueLimit : Byte) : List Byte := [3, link, 0x3F, 12, queueLimit, 0, 250, 25, 10, 2, 1, 6]

theorem witness_CameraWriteMapsRewritesOrUnmaps :
    (∀ s ∈ [State.reset, inPhase .idle, inPhase .held, inPhase .fault], ∀ link ∈ [(0 : Byte), 7, 8],
        AtPart s (toPart (cameraPayload link 8)) (partCode .cameraWrite) ∧ linkTaken s 3 link = false)
      ∧ (∀ link ∈ [(0 : Byte), 7, 8], ((readCamera (cameraPayload link 8)).bind cameraOf).map
          (fun r => (r.link, r.queueLimit)) = some (link, 8))
      ∧ (State.reset.chan 3).phase = .vacant ∧ ((inPhase .idle).chan 3).config.link = 7
      ∧ ∀ w ∈ (inPhase .idle).floor.waiters, w.channel ≠ 3 := by decide +kernel

theorem witness_CameraWriteChecksInOrder :
    AtPart State.reset (toPart (cameraPayload 7 9)) (partCode .cameraWrite)
      ∧ readCamera ((cameraPayload 7 9).drop 1) = none
      ∧ (readCamera (cameraPayload 7 9)).map (fun f => (f.queueLimit, f.link)) = some (9, 7)
      ∧ (readCamera (cameraPayload 31 8)).map CameraFields.link = some 31 ∧ chanOf 3 = some 3 ∧ chanOf 16 = none
      ∧ ((inPhase (.moving move)).chan 3).phase ≠ .idle ∧ (30 : Byte) = State.reset.partAddress := by decide +kernel

theorem witness_HaltResumeAndRecoverActByChannelState :
    (∀ p ∈ [Phase.idle, .held, .fault, .zoneWait move, .moving { move with field := 20 }, .stopping move ramp,
        .settling move, .jogging jog, .manualWait .idle 0, .manual .idle],
        AtCamera (inPhase p) (toCam []) (cameraCode .halt) 3 ∧ (inPhase p).outFree ≠ 0
          ∧ ((inPhase p).chan 3).manualPending = false)
      ∧ (formStop camera.limits { move with field := 20 } .halted).rs ≠ 0 ∧ (formStop camera.limits move .halted).rs = 0
      ∧ (∀ p ∈ [Phase.idle, .moving move, .zoneWait move],
          let s := rig { camera with phase := p, manualPending := true }
          AtCamera s (toCam []) (cameraCode .halt) 3 ∧ s.outFree ≠ 0 ∧ (s.chan 3).manualPending = true
            ∧ ∀ w ∈ s.floor.waiters, w.channel ≠ 3)
      ∧ (∀ p ∈ [Phase.held, .fault, .idle], (inPhase p).outFree ≠ 0
          ∧ AtCamera (inPhase p) (toCam []) (cameraCode .resume) 3
          ∧ AtCamera (inPhase p) (toCam []) (cameraCode .recover) 3) := by decide +kernel

theorem witness_BroadcastHaltReachesEveryMappedChannel :
    (∀ p ∈ [Phase.zoneWait move, .moving move, .moving { move with field := 20 }, .manualWait .idle 0, .idle],
      ∀ pending ∈ [true, false],
        let s := rig { camera with phase := p, manualPending := pending }
        Receivable s ((⟨31, 0, []⟩ : Msg).frame (cameraCode .halt)) ∧ s.partAddress ≠ 31 ∧ s.channelAt 31 = none
          ∧ ∀ w ∈ s.floor.waiters, w.channel ≠ 3)
      ∧ (formStop camera.limits move .halted).rs = 0
      ∧ (formStop camera.limits { move with field := 20 } .halted).rs ≠ 0 := by decide +kernel


theorem witness_QueryAnswersSnapshotAndPresentState :
    AtCamera (inPhase .idle) (toCam []) (cameraCode .query) 3 ∧ (inPhase .idle).outFree ≠ 0 := by decide +kernel

theorem witness_TallyRecordsAndStopsMovesNotLive :
    let m := toPart [0, 8]
    (∀ p ∈ [Phase.idle, .moving { move with field := 20 }, .moving move, .zoneWait move],
        Receivable (inPhase p) (m.frame (partCode .tally)) ∧ m.dest = (inPhase p).partAddress
          ∧ ((inPhase p).chan 3).tally = .offAir ∧ (inPhase p).parkOrder = []
          ∧ ∀ w ∈ (inPhase p).floor.waiters, w.channel ≠ 3)
      ∧ (u16 0 8).testBit 3 = true ∧ move.live = false
      ∧ (formStop camera.limits { move with field := 20 } .tallyStop).rs ≠ 0
      ∧ (formStop camera.limits move .tallyStop).rs = 0
      ∧ (∀ p ∈ [Phase.moving { move with live := true }, .zoneWait { move with live := true }, .manualWait .idle 0, .idle],
        ∀ now ∈ [Tally.offAir, .onAir], ∀ bits ∈ [(0 : Byte), 8],
          let s := rig { camera with phase := p, tally := now }
          Receivable s ((toPart [0, bits]).frame (partCode .tally)) ∧ Walked s ∧ ∀ d, d ≠ 3 → (s.chan d).phase = .vacant)
      ∧ (let s := { rig { camera with phase := .zoneWait { move with live := true } } with
            floor := ⟨owned [(4, 9)], [⟨3, .move, [4, 5]⟩]⟩ }
        Receivable s (m.frame (partCode .tally)) ∧ Walked s ∧ ∀ d, d ≠ 3 → (s.chan d).phase = .vacant) := by decide +kernel

/-- A POSITION payload that carries PAN to TRAVEL at a position. -/
def report (mask : Byte) (n : Nat) (p : Int) : List Byte := [0, mask] ++ (List.replicate n (be24 p)).flatten

theorem witness_PositionStoresReportValidatesAndCounts :
    let s (valid : Bool) := rig { camera with valid := valid }
    let watch := { PerAxis.all { Limits.reset with window := 10 } with tilt := { Limits.reset with follow := 500, window := 10 } }
    let moving (p : Phase) := rig { camera with phase := p, limits := watch, followErrors := .all 1 }
    (∀ v ∈ [true, false], FromHead (s v) (fromCam (report 0x3F 6 5)) (headCode .position) 3
        ∧ inMotion ((s v).chan 3).phase = false)
      ∧ (readPosition (report 0x3F 6 5)).map PositionFields.axes = some (.all (some 5))
      ∧ (readPosition (report 0 0 5)).map PositionFields.axes = some (.all none)
      ∧ (∀ p ∈ [Phase.moving move, .settling move], FromHead (moving p) (fromCam (report 3 2 501)) (headCode .position) 3
          ∧ inMotion ((moving p).chan 3).phase = true ∧ ((moving p).chan 3).valid = true
          ∧ 500 < (501 - (((moving p).chan 3).history.get .tilt).get ((moving p).chan 3).config.latency).natAbs
          ∧ ((moving p).chan 3).followErrors.get .tilt < 2)
      ∧ (move.moved.get .pan = true ∧ watch.pan.window ≠ 0 ∧ watch.pan.window < (501 - move.target.get .pan).natAbs) := by
  decide +kernel

theorem witness_ThirdFollowingErrorFaults :
    let f : PositionFields := ⟨0, { PerAxis.all none with tilt := some (-320) }⟩
    let ch := following.chan 3
    let checked : Axis → Bool := fun b => ch.config.mask.get b && (f.axes.get b).isSome
      && decide ((ch.limits.get b).follow ≠ 0)
    FromHead following (fromCam (report 2 1 (-320))) (headCode .position) 3 ∧ readPosition (report 2 1 (-320)) = some f
      ∧ inMotion ch.phase = true ∧ ch.valid = true ∧ CountsOk following ∧ (∀ b, ch.followErrors.get b ≠ 3)
      ∧ checked .tilt = true ∧ (ch.limits.get .tilt).follow < (-320 - (ch.history.get .tilt).get ch.config.latency).natAbs
      ∧ ch.followErrors.get .tilt = 2 ∧ ∀ b, checked b = true → Axis.number .tilt ≤ b.number :=
  ⟨by decide +kernel, by decide +kernel, by decide +kernel, by decide +kernel,
    fun c => ⟨by revert c; decide +kernel, fun a => by revert c; cases a <;> decide +kernel⟩,
    fun b => by cases b <;> decide +kernel, by decide +kernel, by decide +kernel, by decide +kernel,
    fun b => by cases b <;> decide +kernel⟩

theorem witness_AlarmFaultsAndIsForwarded :
    ∀ p ∈ [Phase.fault, .idle, .stopping move ramp, .zoneWait move, .manualWait .idle 0], ∀ pending ∈ [true, false],
      let s := rig { camera with phase := p, manualPending := pending }
      FromHead s (fromCam [7]) (headCode .alarm) 3 ∧ (s.chan 3).valid = true := by decide +kernel

theorem witness_CallIsQueuedParkedOrReplacesParked :
    let old : ParkedCall := ⟨41, 9, none, .queue⟩
    ∀ s ∈ [stored (inPhase .idle), { stored (inPhase .idle) with poolFree := 0 },
        { stored (rig { camera with parked := some old }) with poolFree := 0, parkOrder := [3] }],
      ∀ mode ∈ [(0 : Byte), 1],
        AtCamera s (callOf mode) (cameraCode .call) 3 ∧ s.outFree ≠ 0 ∧ (readCall (callOf mode).payload).isSome = true
          ∧ (s.chan 3).phase ≠ .fault ∧ s.findShot 3 41 ≠ none ∧ (s.chan 3).config.queueLimit ≠ 0
          ∧ (s.chan 3).queue.length < (s.chan 3).config.queueLimit
          ∧ (s.chan 3).queue.length + (if moveOf (s.chan 3).phase = none then 0 else 1) < 8 := by decide +kernel

theorem witness_CallChecksInOrder :
    let s := stored (rig { camera with queue := List.replicate 4 cue })
    let open_ := stored (rig { camera with config := { camera.config with queueLimit := 0 } })
    (∀ t ∈ [s, open_, inPhase .fault, inPhase .idle], AtCamera t (callOf 0) (cameraCode .call) 3 ∧ t.outFree ≠ 0)
      ∧ (toCam [0, 41]).payload.length ≠ 7
      ∧ (readCall (callOf 3).payload).map CallFields.mode = some 3
      ∧ (readCall [0, 41, 0, 0, 0, 0, 1]).map CallFields.duration = some 1
      ∧ (readCall [0, 41, 0, 0, 0, 0x10, 0]).map CallFields.duration = some 4096
      ∧ (inPhase .idle).findShot 3 41 = none ∧ (open_.chan 3).config.queueLimit = 0
      ∧ (s.chan 3).config.queueLimit ≤ (s.chan 3).queue.length := by decide +kernel

theorem witness_CutReplacesQueueAndSupersedesMove :
    let other : Channel := { Channel.powerOn with parked := some ⟨41, 9, none, .queue⟩ }
    let s (p : Phase) (queue : List Cue) (free : Nat) (park : List Chan) : State :=
      { stored ((rig { camera with phase := p, queue := queue }).setChan 5 other) with poolFree := free, parkOrder := park }
    (∀ p ∈ [Phase.idle, .moving { move with field := 20 }, .moving move, .zoneWait move],
      ∀ queue ∈ [[], [cue], [cue, cue]], ∀ free ∈ [1, 0], ∀ park ∈ [[], [5]],
        let s := s p queue free park
        AtCamera s (callOf 2) (cameraCode .call) 3 ∧ s.outFree ≠ 0 ∧ (s.chan 3).phase ≠ .fault
          ∧ s.findShot 3 41 ≠ none ∧ s.parkOrder.Nodup ∧ (∀ d ∈ s.parkOrder, (s.chan d).parked ≠ none)
          ∧ ∀ w ∈ s.floor.waiters, w.channel = 3)
      ∧ (readCall (callOf 2).payload).map (fun f => (f.mode, f.shot, f.duration)) = some (2, 41, 0)
      ∧ (formStop camera.limits { move with field := 20 } .superseded).rs ≠ 0
      ∧ (formStop camera.limits move .superseded).rs = 0 := by decide +kernel

theorem witness_FlushEmptiesQueueAndParkedCall :
    let s := { rig { camera with queue := [cue], parked := some ⟨41, 9, none, .queue⟩ } with parkOrder := [3], poolFree := 0 }
    AtCamera s (toCam []) (cameraCode .flush) 3 ∧ s.outFree ≠ 0 ∧ ∀ d ∈ s.parkOrder, d = 3 := by decide +kernel

theorem witness_ReleasedEntryServesOldestParkedCall :
    State.reset.parkOrder = [] ∧ pool.parkOrder = 5 :: [] ∧ (pool.chan 5).parked = some ⟨41, 505, none, .next⟩
      ∧ pool.resetHeld = false ∧ { pool with poolFree := 1 }.poolFree ≠ 0
      ∧ ({ pool with parkOrder := [7, 5] }.parkOrder = [7] ++ 5 :: [] ∧ (5 : Chan) ≠ 7) ∧ (∀ d ∈ pool.parkOrder, d = 5) := by
  decide +kernel

theorem witness_WalkGrantsWholeSetsAndTakesFromNoOwner :
    (owned [(4, 2)]).get 4 = some 2 ∧ (owned [(4, 2)]).get 3 = none
      ∧ (walkPass (owned [(4, 2), (8, 2)]) [] walkers).2.1 = walkers.take 1 ++ ⟨7, .move, [3, 6]⟩ :: walkers.drop 2
      ∧ (walkPass (owned [(8, 2)]) [] walkers).1.get 3 = some 5 ∧ walkers = [] ++ ⟨5, .move, [3, 4]⟩ :: walkers.drop 1
      ∧ ¬(∀ z ∈ ([6] : List Zone), ∀ x ∈ (walkPass (owned [(4, 2)]) [] (walkers.take 2)).2.1, z ∉ x.zones) := by
  decide +kernel

/-- Twelve waiters, one more than the first part of a ZONE READ answer shows. -/
def crowd : List Waiter :=
  [0, 1, 2, 3, 4, 5, 6, 7, 8, 9, 10, 11].map fun c => (⟨c, .move, [4]⟩ : Waiter)

theorem witness_ZoneReleaseAndZoneReadShowFloor :
    (∀ b ∈ [(3 : Byte), 16], AtPart (inPhase .idle) (toPart [b]) (partCode .zoneRelease)) ∧ chanOf 3 = some 3
      ∧ ((inPhase (.moving move)).chan 3).phase ≠ .idle ∧ (inPhase .idle).floor.waiters = []
      ∧ (∀ w ∈ crowd.drop 4, w.channel ≠ 3)
      ∧ (∀ ws ∈ [crowd, crowd.drop 1], AtPart { inPhase .idle with floor := ⟨owned [], ws⟩ } (toPart []) (partCode .zoneRead))
      ∧ 11 < crowd.length ∧ (crowd.drop 1).length ≤ 11
      ∧ (let s := { (inPhase (.zoneWait move)).setChan 5 camera with floor := ⟨owned [], [⟨3, .move, move.zones⟩]⟩ }
        AtPart s (toPart [5]) (partCode .zoneRelease) ∧ (s.chan 5).phase = .idle
          ∧ ((s.chan 3).phase = .zoneWait move ∧ move.post = .idle)
          ∧ ∀ d, d ≠ 3 → d ≠ 5 → (s.chan d).phase = .vacant)
      ∧ ((inPhase (.zoneWait { move with waitCount := 4095 })).chan 3).phase = .zoneWait { move with waitCount := 4095 }
      ∧ ((inPhase (.manualWait .held 249)).chan 3).phase = .manualWait .held 249 := by decide +kernel

/-- Channel 3 waits for zones that are free. -/
def granting (p : Phase) (w : Waiter) : State := { inPhase p with floor := ⟨owned [], [w]⟩ }

theorem witness_GrantTakesZonesAndHandsOver :
    let w : Waiter := ⟨3, .move, move.zones⟩
    let w' : Waiter := ⟨3, .manual, [6]⟩
    (grantable .move 3 (granting (.zoneWait move) w) = some w ∧ move.dur ≠ 0)
      ∧ grantable .manual 3 (granting (.manualWait .held 0) w') = some w'
      ∧ grantable .move 3 State.reset = none ∧ grantable .manual 3 State.reset = none
      ∧ (grantable .move 3 (granting (.zoneWait stay) w) = some w ∧ stay.dur = 0 ∧ stay.post = .idle) := by
  decide +kernel

/-- Channel 3 IDLE with a cue at the head of its queue and a field event due. -/
def starting (ch : Channel) : State := stored (rig { ch with fieldDue := true, queue := [cue] })

theorem witness_StartAttemptStartsReturnsOrEndsCue :
    let outside : Channel := { camera with limits := .all { Limits.reset with minPos := 1 } }
    let slow : Channel := { camera with commanded := .all (-8000000) }
    let still : Channel := { camera with config := { camera.config with mask := .all false } }
    let blocked (s : State) : State := { s with floor := ⟨owned [(5, 9), (6, 9)], []⟩ }
    let behind : State := { starting camera with floor := ⟨owned [(4, 9)], [⟨7, .move, [4, 5]⟩]⟩ }
    let asked : Channel := { camera with manualPending := true, config := { camera.config with manualZones := [6] } }
    (∀ s ∈ [starting camera, starting { camera with valid := false }, starting { camera with tally := .onAir },
        starting outside, starting slow, starting still, blocked (starting camera), behind,
        { starting camera with shots := [] }],
        s.resetHeld = false ∧ (s.chan 3).fieldDue = true ∧ (s.chan 3).phase = .idle ∧ (s.chan 3).manualPending = false
          ∧ Walked s ∧ s.parkOrder = [] ∧ ∀ w ∈ s.floor.waiters, w.channel ≠ 3)
      ∧ (∀ s ∈ [starting asked, blocked (starting asked)], s.resetHeld = false ∧ (s.chan 3).fieldDue = true
          ∧ (s.chan 3).phase = .idle ∧ (s.chan 3).manualPending = true ∧ Walked s)
      ∧ (ZoneOpen (starting asked) 3 6 ∧ ¬ZoneOpen (blocked (starting asked)) 3 6)
      ∧ ((starting camera).chan 3).queue = cue :: [] ∧ (starting camera).findShot 3 cue.shot = some shot
      ∧ { starting camera with shots := [] }.findShot 3 cue.shot = none
      ∧ shot.live = false ∧ outside.commanded.pan < outside.limits.pan.minPos ∧ shot.targets.pan ≠ none
      ∧ 4095 < (planMove slow cue shot false).dur ∧ 2 ≤ move.dur ∧ move.dur ≤ 4095
      ∧ (planMove still cue shot false).dur = 0 ∧ (∀ z ∈ move.zones, ZoneOpen (starting camera) 3 z)
      ∧ (5 ∈ move.zones ∧ ¬ZoneOpen (blocked (starting camera)) 3 5 ∧ ¬ZoneOpen behind 3 5) :=
  ⟨by decide +kernel, by decide +kernel, by decide +kernel, by decide +kernel⟩

theorem witness_FieldEventKeepsBooksAndAdvancesState :
    (FieldReady (due (.moving { move with field := 38 })) 3 ∧ 38 + 1 < move.dur)
      ∧ (FieldReady (due (.stopping move ramp)) 3 ∧ ramp.step + 1 < ramp.rs)
      ∧ (FieldReady (due (.jogging { jog with age := 6 })) 3 ∧ 6 + 1 < 8
        ∧ (jogStep Limits.reset .offAir 0 ⟨30, 30⟩).2.demand ≠ 0)
      ∧ (FieldReady (due (.settling { move with settleCount := 23 })) 3 ∧ 23 + 1 < camera.config.settleLimit)
      ∧ (FieldReady (due (.zoneWait { move with waitCount := 248 })) 3
        ∧ min 4095 (248 + 1) < camera.config.zoneWaitLimit)
      ∧ (∀ p ∈ [Phase.manualWait .held 248, .held, .fault, .manual .idle], ((due p).chan 3).fieldDue = true)
      ∧ ((inPhase .idle).chan 3).fieldDue = false
      ∧ ∀ b ∈ [true, false], { State.reset.monitor with headDue := b }.headDue = b := by decide +kernel

theorem witness_ProfileCompletesIntoSettlingOrArrived :
    let m := { move with field := 39 }
    FieldReady (due (.moving m)) 3 ∧ m.dur = m.field + 1 ∧ m.post = .idle ∧ m.moved.get .pan = true
      ∧ ((due (.moving m)).chan 3).limits.pan.window = 0
      ∧ ({ camera with limits := .all { Limits.reset with window := 1 } } : Channel).limits.pan.window ≠ 0 := by
  decide +kernel

theorem witness_StopRampCompleteEndsMoveWithItsCause :
    let last := { ramp with step := ramp.rs - 1 }
    let s (post : RestState) (pending : Bool) :=
      rig { camera with phase := .stopping { move with post := post } last, fieldDue := true, manualPending := pending }
    last.rs ≤ last.step + 1 ∧ ∀ post ∈ [RestState.idle, .held], ∀ pending ∈ [true, false], FieldReady (s post pending) 3
      ∧ (s post pending).parkOrder = [] ∧ ∀ w ∈ (s post pending).floor.waiters, w.channel ≠ 3 := by
  decide +kernel

theorem witness_JogWindsDownAtDeadmanAndEndsAtRest :
    let late := { jog with age := 7 }
    let rest : Jog := ⟨{ PerAxis.all none with pan := some ⟨0, 10⟩ }, 8, .held⟩
    (FieldReady (due (.jogging late)) 3 ∧ 7 ≤ late.age
        ∧ (jogStep Limits.reset .offAir 0 ⟨0, 30⟩).2.velocity ≠ 0)
      ∧ (FieldReady (due (.jogging rest)) 3 ∧ jogAtRest (stepJog camera (ageJog rest)) = true
        ∧ ((due (.jogging rest)).chan 3).manualPending = false)
      ∧ (let s := rig { camera with phase := .jogging rest, fieldDue := true, manualPending := true }
        FieldReady s 3 ∧ rest.ret = .held ∧ (s.chan 3).manualPending = true ∧ ∀ w ∈ s.floor.waiters, w.channel ≠ 3) := by
  decide +kernel

theorem witness_ZoneAndSettleTimeoutsEndMoves :
    let waits := { move with waitCount := 249 }
    let settles := { move with settleCount := 24 }
    (FieldReady (due (.zoneWait waits)) 3 ∧ camera.config.zoneWaitLimit ≠ 0
        ∧ camera.config.zoneWaitLimit ≤ min 4095 (waits.waitCount + 1))
      ∧ (FieldReady (due (.settling settles)) 3 ∧ camera.config.settleLimit ≤ settles.settleCount + 1
        ∧ settles.post = .idle) := by decide +kernel

theorem witness_ReportInPositionEndsSettlingArrived :
    let watched (follow count : Nat) : Channel := { camera with
      phase := .settling move, limits := .all { Limits.reset with window := 10, follow := follow }, followErrors := .all count }
    let exceeds (ch : Channel) (p : Int) :=
      (ch.limits.get .pan).follow < (p - (ch.history.get .pan).get ch.config.latency).natAbs
    (∀ ch ∈ [watched 0 0, watched 2990 2, watched 2989 1],
      FromHead (rig ch) (fromCam (report 1 1 2990)) (headCode .position) 3 ∧ ch.phase = .settling move ∧ ch.valid = true)
      ∧ readPosition (report 1 1 2990) = some ⟨0, { PerAxis.all none with pan := some 2990 }⟩
      ∧ (¬exceeds (watched 2990 2) 2990 ∧ exceeds (watched 2989 1) 2990 ∧ (watched 2989 1).followErrors.get .pan < 2)
      ∧ (2990 - move.target.pan).natAbs ≤ 10 ∧ ¬(2989 - move.target.pan).natAbs ≤ 10 := by decide +kernel

theorem witness_ReportLossFaultsWithoutSetpoint :
    let s (valid : Bool) := rig { camera with phase := .moving move, reportAge := 9, fieldDue := true, valid := valid }
    ∀ v ∈ [true, false], (s v).resetHeld = false ∧ ((s v).chan 3).fieldDue = true ∧ inMotion ((s v).chan 3).phase = true
      ∧ ((s v).chan 3).config.reportTimeout ≤ min 255 (((s v).chan 3).reportAge + 1) := by decide +kernel

theorem witness_ManualWaitTimeoutDeniesRequest :
    let s := due (.manualWait .held 249)
    s.resetHeld = false ∧ (s.chan 3).fieldDue = true ∧ (s.chan 3).config.zoneWaitLimit ≠ 0
      ∧ (s.chan 3).config.zoneWaitLimit ≤ min 4095 (249 + 1) := by decide +kernel

theorem witness_JogFrameStartsRenewsOrIsDiscarded :
    (∀ p ∈ [Phase.idle, .held, .jogging jog, .fault],
        AtCamera (inPhase p) (toCam (1 :: be24 30)) (cameraCode .jog) 3 ∧ ((inPhase p).chan 3).valid = true)
      ∧ readJog (1 :: be24 30) = some { PerAxis.all none with pan := some 30 } ∧ camera.config.mask.pan = true
      ∧ readJog (0x20 :: be24 30) = some { PerAxis.all none with travel := some 30 } ∧ readJog (1 :: be16 30) = none := by
  decide +kernel

theorem witness_ManualRequestAndReleaseActByState :
    (∀ p ∈ [Phase.idle, .held, .moving move, .manualWait .idle 0, .manual .idle, .fault],
        FromHead (inPhase p) (fromCam []) (headCode .manualRequest) 3
          ∧ FromHead (inPhase p) (fromCam []) (headCode .manualRelease) 3 ∧ Walked (inPhase p))
      ∧ (let s := { rig { camera with config := { camera.config with manualZones := [6] } } with floor := ⟨owned [(6, 9)], []⟩ }
        FromHead s (fromCam []) (headCode .manualRequest) 3 ∧ Walked s ∧ ¬ZoneOpen s 3 6) := by decide +kernel

theorem witness_ReferencePulseMeasuresLocksOrBeats :
    (timeOpen State.reset.monitor 20000 = true ∧ State.reset.monitor.state ≠ .locked ∧ State.reset.monitor.window = none)
      ∧ (timeOpen windowAt8.monitor 183468 = true ∧ windowAt8.monitor.window = some ⟨50000, 7⟩
        ∧ 120000 ≤ 183468 - 50000)
      ∧ (timeOpen { windowAt8.monitor with now := 160000 } 169999 = true ∧ 169999 - 50000 < 120000)
      ∧ (timeOpen { windowAt8.monitor with window := some ⟨50000, 6⟩ } 180000 = true)
      ∧ (locked.resetHeld = false ∧ locked.monitor.state = .locked ∧ locked.monitor.afterLock = true
        ∧ timeOpen locked.monitor 200151 = true)
      ∧ (beating.monitor.state = .locked ∧ beating.monitor.afterLock = false ∧ timeOpen beating.monitor 216334 = true
        ∧ 216334 + 500 < beating.monitor.lastFieldAt + beating.monitor.heldPeriod
        ∧ beating.monitor.lastFieldAt + beating.monitor.heldPeriod ≤ 216335 + 500)
      ∧ (let s := after (exec (.referencePulse 216335 [.channel 3]) (beating.setChan 3 camera))
        s.monitor.headDue = true ∧ (s.chan 3).fieldDue = false ∧ mapped (s.chan 3) = true) := by decide +kernel

theorem witness_WindowLimitAndFlywheelExpiryActByState :
    let s := { windowAt8 with monitor := { windowAt8.monitor with now := 210000, flywheelAt := 220000 } }
    (s.resetHeld = false ∧ s.monitor.window = some ⟨50000, 7⟩ ∧ timeOpen s.monitor (50000 + 168000) = true
        ∧ s.monitor.state = .acquire)
      ∧ (beating.resetHeld = false ∧ timeOpen beating.monitor beating.monitor.flywheelAt = true
        ∧ beating.monitor.state = .locked ∧ beating.monitor.headDue = false
        ∧ ∀ c, (beating.chan c).fieldDue = false)
      ∧ (let s := after (exec (.flywheelTimerExpiry [.headPort]) (beating.setChan 3 camera))
        s.monitor.headDue = false ∧ (s.chan 3).fieldDue = true ∧ mapped (s.chan 3) = true) := by decide +kernel

theorem witness_ForeignFramesAreForwardedOrBadKind :
    let s := inPhase .idle
    (∀ f ∈ [(⟨30, 0, 0x80, []⟩ : Frame), ⟨7, 0, 0x0F, []⟩, ⟨7, 0, 0x17, []⟩, ⟨9, 0, 0x12, []⟩, ⟨31, 0, 0x12, [0]⟩,
        ⟨0, 9, 0x60, []⟩, ⟨0, 9, 0x5F, []⟩, ⟨0, 9, 0x64, []⟩, ⟨30, 0, 0x1F, []⟩, ⟨30, 0, 0x2D, []⟩, ⟨30, 0, 0x7F, []⟩],
        Receivable s f)
      ∧ s.channelAt 7 = some 3 ∧ s.channelAt 9 = none ∧ s.channelAt 31 = none ∧ s.outFree ≠ 0 := by decide +kernel

theorem witness_FrameBytesAreReceivedAndBadCandidatesDiscarded :
    (State.reset.resetHeld = false ∧ rxOf .control State.reset = [] ∧ rxOf .head State.reset = []
        ∧ (∀ b ∈ [(0xA4 : Byte), 0xA6], b ≠ 0xA5) ∧ (List.replicate 96 (0 : Byte)).length ≤ 96)
      ∧ 96 < (97 : Byte).toNat
      ∧ ((0 : Byte).toNat + 2 ≤ [(0 : Byte), 0].length ∧ [(0 : Byte), 0] ≠ be16 (crc16 [1, 2, 3, 0]).toNat)
      ∧ ((96 : Byte).toNat ≤ 96 ∧ (List.replicate 97 (0 : Byte)).length < (96 : Byte).toNat + 2) := by decide +kernel

theorem witness_FrameBoundariesSendInOrder :
    let e : OutEntry := ⟨⟨0, 30, 0x40, []⟩, none⟩
    let reached := { State.reset with link := { State.reset.link with reached := true } }
    let answering := { reached with out := ⟨[e], 0, false⟩ }
    (sending.resetHeld = false ∧ sending.link.reached = true ∧ sending.link.batch.get 2 = some ⟨⟨3, 30, 0x50, [2]⟩, false⟩
        ∧ ∀ d, d < 2 → sending.link.batch.get d = none)
      ∧ (reached.resetHeld = false ∧ reached.link.reached = true ∧ ∀ c, reached.link.batch.get c = none)
      ∧ (answering.out.entries = e :: [] ∧ answering.link.controlSecond = false ∧ answering.link.upstream = []
        ∧ e.second = none)
      ∧ reached.out.entries = [] ∧ State.reset.link.reached = false := by decide +kernel

theorem witness_PartQueryAnswersAndClearsNoticeLost :
    AtPart State.reset (toPart []) (partCode .partQuery) := by decide +kernel

theorem witness_ResetFrameResetsAllButStoredRecords :
    ∀ b ∈ [(0 : Byte), 1, 2], AtPart (inPhase (.moving move)) (toPart [b]) (partCode .reset)
      ∧ AtPart { inPhase .idle with link := { Link.powerOn with controlSecond := true } } (toPart [b]) (partCode .reset) := by
  decide +kernel

theorem witness_StepKeepsPartInvariant :
    let s := stored (inPhase (.moving move))
    PartOk s ∧ step s = .next s :=
  ⟨{ directory := by decide +kernel
     limits := fun c a => ⟨by revert c; cases a <;> decide +kernel, fun l h => by
       have : ∀ c, ((stored (inPhase (.moving move))).chan c).pendingLimits = .all none := by decide +kernel
       simp only [this] at h; cases a <;> cases h⟩
     pendingLimits := by unfold PendingOk; decide +kernel
     counts := fun c => ⟨by revert c; decide +kernel, fun a => by revert c; cases a <;> decide +kernel⟩
     outbound := by decide +kernel
     link := by decide +kernel
     quiet := by decide +kernel
     monitor := ⟨by decide +kernel, by decide +kernel, fun _ h => nomatch h⟩
     heldPeriod := by decide +kernel
     records :=
      { address := by decide +kernel
        shots := fun r h => by
          have : r = shot := by simpa [stored] using h
          subst this; exact witness_StoredRecordsReadBackAsWritten.1
        limits := fun c a => by revert c; cases a <;> decide +kernel
        pendingLimits := fun c a l h => by
          have : ∀ c, ((stored (inPhase (.moving move))).chan c).pendingLimits = .all none := by decide +kernel
          simp only [this] at h; cases a <;> cases h
        config := by decide +kernel
        mapped := by decide +kernel
        links := by decide +kernel } }, by rfl⟩

/-- Channel 3 in ZONE_WAIT with its waiter, its active cue out of the pool. -/
def waitingPart : State := { granting (.zoneWait move) ⟨3, .move, move.zones⟩ with poolFree := 63 }
theorem witness_StepKeepsPoolAndFloorInvariant : CueFloorOk waitingPart ∧ step waitingPart = .next waitingPart :=
  ⟨{ pool := by decide +kernel
     queues := by decide +kernel
     parkNodup := by decide +kernel
     parkExact := by decide +kernel
     parkFull := by decide +kernel
     waiterNodup := by decide +kernel
     waiterOk := fun w h => by
       have : w = ⟨3, .move, move.zones⟩ := by simpa [waitingPart, granting] using h
       subst this; exact ⟨move, rfl, rfl⟩
     waiting := fun c h => ⟨⟨3, .move, move.zones⟩, .head _, by
       have vacant : ∀ d, d ≠ 3 → (waitingPart.chan d).phase = .vacant := by decide +kernel
       by_contra n
       have := vacant c (fun e => n e.symm)
       rcases h with ⟨m, h⟩ | ⟨r, n, h⟩ <;> rw [this] at h <;> cases h⟩
     vacant := by decide +kernel }, by rfl⟩

/-- The exact notices of O25: the state of the witness before this one takes a broadcast HALT. -/
theorem witness_BroadcastHaltAddsExactlyItsNotices : CueFloorOk waitingPart
    ∧ Receivable waitingPart ((⟨31, 0, []⟩ : Msg).frame (cameraCode .halt)) ∧ waitingPart.partAddress ≠ 31
    ∧ waitingPart.channelAt 31 = none ∧ (waitingPart.chan 3).phase = .zoneWait move :=
  ⟨witness_StepKeepsPoolAndFloorInvariant.1, by decide +kernel⟩

theorem witness_StepLeavesNoGrantableWaiter :
    let s : State := { waitingPart with floor := ⟨owned [(5, 9)], waitingPart.floor.waiters⟩ }
    WalkedOk s ∧ s.floor.waiters ≠ [] ∧ step s = .next s :=
  ⟨{ posts := fun c m h => by
      have three : ∀ m, (waitingPart.chan 3).phase = .zoneWait m → m = move := fun m h => by injection h.symm
      have others : ∀ d, d ≠ 3 → (waitingPart.chan d).phase = .vacant := by decide +kernel
      by_cases e : c = 3
      · subst e; rw [three m h]; rfl
      · exact nomatch (others c e).symm.trans h
     walked := by decide +kernel }, by decide, by rfl⟩

end Sys2Proof.Tests
end

section
/-! Which channels are VACANT: no work at a channel changes that but a CAMERA WRITE (R53, R57, R59). Each lemma says so of
one operation, for any set of channels V that the VACANT ones are. -/

namespace Sys2Proof.Machine

/-- The VACANT channels are those of a set. -/
def VacantAre (V : Chan → Prop) (s : State) : Prop := ∀ c, (s.chan c).phase = .vacant ↔ V c

variable {V : Chan → Prop}

/-! ## Changes of one channel -/

theorem VacantAre.of_phases {s t : State} (h : VacantAre V s) (k : ∀ d, (t.chan d).phase = (s.chan d).phase) :
    VacantAre V t := fun d => by rw [k]; exact h d

theorem VacantAre.not_mem {s : State} (h : VacantAre V s) {c : Chan} (k : (s.chan c).phase ≠ .vacant) : ¬V c := mt (h c).2 k

/-- A channel whose state is known, and is not VACANT, is not in the set. -/
theorem VacantAre.not_mem_of {s : State} (h : VacantAre V s) {c : Chan} {p : Phase} (e : (s.chan c).phase = p)
    (k : p ≠ .vacant) : ¬V c := h.not_mem (e ▸ k)

theorem VacantAre.modChan {s : State} (h : VacantAre V s) {c : Chan} (hc : ¬V c) {f : Channel → Channel}
    (k : (f (s.chan c)).phase ≠ .vacant) : VacantAre V (s.modChan c f) := by
  intro d
  rw [modChan_chan]
  split
  · next e => exact ⟨fun n => absurd n k, fun n => absurd (e ▸ n) hc⟩
  · exact h d

theorem VacantAre.same {s : State} (h : VacantAre V s) {c : Chan} {f : Channel → Channel}
    (k : (f (s.chan c)).phase = (s.chan c).phase) : VacantAre V (s.modChan c f) :=
  h.of_phases fun d => by
    rw [modChan_chan]
    split
    · next e => rw [k, e]
    · rfl

theorem restPhase_ne_vacant (r : RestState) : restPhase r ≠ .vacant := by cases r <;> exact nofun

theorem VacantAre.notice {s : State} (h : VacantAre V s) (p : List Byte) : VacantAre V (notice p s) :=
  h.of_phases (notice_waits p s).phases

theorem VacantAre.pushHead {s : State} (h : VacantAre V s) (f : Frame) : VacantAre V (pushHead f s) :=
  h.of_phases (pushHead_waits f s).phases

theorem VacantAre.emit {s : State} (h : VacantAre V s) (c : Chan) (f : Frame) : VacantAre V (emit c f s) :=
  h.of_phases (emit_waits c f s).phases

theorem VacantAre.flushQueue {s : State} (h : VacantAre V s) (c : Chan) : VacantAre V (flushQueue c s) :=
  h.of_phases (flushQueue_waits c s).phases

theorem VacantAre.displaceParked {s : State} (h : VacantAre V s) (c : Chan) : VacantAre V (displaceParked c s) :=
  h.of_phases (displaceParked_waits c s).phases

theorem VacantAre.setFloor {s : State} (h : VacantAre V s) (f : Floor) : VacantAre V { s with floor := f } :=
  h.of_phases fun _ => rfl

theorem VacantAre.dropWaiter {s : State} (h : VacantAre V s) (c : Chan) : VacantAre V (dropWaiter c s) := h.setFloor _

theorem VacantAre.addWaiter {s : State} (h : VacantAre V s) (x : Waiter) : VacantAre V (addWaiter x s) := h.setFloor _

theorem VacantAre.freeZones {s : State} (h : VacantAre V s) (zs : List Zone) : VacantAre V (freeZones zs s) := h.setFloor _

/-- Reported positions taken as the commanded ones, as they are when position is valid. -/
theorem VacantAre.takeReported {s : State} (h : VacantAre V s) (c : Chan) :
    VacantAre V (s.modChan c fun ch => if ch.valid then takeReported ch else ch) := h.same (by split <;> rfl)

theorem VacantAre.foldl {α : Type} {s : State} (h : VacantAre V s) {f : State → α → State}
    (hf : ∀ t x, VacantAre V t → VacantAre V (f t x)) (xs : List α) : VacantAre V (xs.foldl f s) :=
  foldl_gives f hf xs s h

/-! ## The end of a move and the walk -/

section
variable {w : State → State} (hw : ∀ s, VacantAre V s → VacantAre V (w s))
include hw

theorem VacantAre.settleFloor {s : State} (h : VacantAre V s) (c : Chan) (keep : Option (List Zone)) :
    VacantAre V (settleFloor w c keep s) := by
  unfold Machine.settleFloor
  split
  · exact h
  · split
    · exact h
    · exact hw _ (h.freeZones _)

theorem VacantAre.enterManualWait {s : State} (h : VacantAre V s) {c : Chan} (hc : ¬V c) (r : RestState) :
    VacantAre V (enterManualWait w c r s) := by
  have k : VacantAre V (s.modChan c fun ch => { toPhase (.manualWait r 0) ch with manualPending := false }) :=
    h.modChan hc nofun
  exact hw _ (k.addWaiter _)

theorem VacantAre.enterRest {s : State} (h : VacantAre V s) {c : Chan} (hc : ¬V c) (r : RestState) :
    VacantAre V (enterRest w c r s) := by
  have k : VacantAre V (s.modChan c (toPhase (restPhase r))) := h.modChan hc (restPhase_ne_vacant r)
  simp only [Machine.enterRest]
  split
  · exact k.enterManualWait hw hc _
  · exact k

theorem VacantAre.moveEnd {s : State} (h : VacantAre V s) {c : Chan} (hc : ¬V c) (e : MoveEnd) (x : MoveExit) :
    VacantAre V (moveEnd w c e x s) := by
  have k := (h.of_phases (moveEnd_books c e s).phases).settleFloor hw c e.keep
  cases x with
  | rest r => exact k.enterRest hw hc r
  | fault => exact k.modChan hc nofun

theorem VacantAre.takeGrant {s : State} (h : VacantAre V s) (x : Waiter) : VacantAre V (takeGrant w s x) := by
  unfold Machine.takeGrant
  split
  · next e =>
    have hc := h.not_mem_of e nofun
    split
    · exact h.moveEnd hw hc _ _
    · exact h.modChan hc nofun
  · next e => exact ((h.pushHead _).notice _).modChan (h.not_mem_of e nofun) nofun
  · exact h

theorem VacantAre.withdrawMove {s : State} (h : VacantAre V s) {c : Chan} (hc : ¬V c) (m : Move) (o : MoveOutcome)
    (x : MoveExit) : VacantAre V (withdrawMove w c m o x s) :=
  hw _ ((h.dropWaiter c).moveEnd hw hc _ _)

theorem VacantAre.enterStopping {s : State} (h : VacantAre V s) {c : Chan} (hc : ¬V c) (m : Move) (k : StopCause)
    (p : RestState) : VacantAre V (enterStopping w c m k p s) := by
  simp only [Machine.enterStopping]
  split
  · exact h.moveEnd hw hc _ _
  · exact h.modChan hc nofun

theorem VacantAre.haltChannel {s : State} (h : VacantAre V s) {c : Chan} (hc : ¬V c) : VacantAre V (haltChannel w c s) := by
  unfold Machine.haltChannel
  split
  case h_1 => exact h.enterRest hw hc _
  case h_2 => exact h.withdrawMove hw hc _ _ _
  case h_3 => exact h.enterStopping hw hc _ _ _
  case h_4 | h_5 | h_6 | h_7 | h_8 => exact h.modChan hc nofun
  all_goals exact h

end

theorem VacantAre.walkN (n : Nat) : ∀ s, VacantAre V s → VacantAre V (walkN n s) := by
  induction n with
  | zero => exact fun _ h => h
  | succ n ih =>
    intro s h
    exact (h.setFloor _).foldl (fun _ x k => k.takeGrant ih x) _

theorem VacantAre.walk (s : State) (h : VacantAre V s) : VacantAre V (walk s) := VacantAre.walkN _ s h

theorem VacantAre.endForFault {s : State} (h : VacantAre V s) {c : Chan} (hc : ¬V c) : VacantAre V (endForFault c s) := by
  unfold Machine.endForFault
  split
  · exact h.withdrawMove walk hc _ _ _
  · exact h.moveEnd walk hc _ _
  · exact h.moveEnd walk hc _ _
  · exact h.moveEnd walk hc _ _
  · exact ((walk _ (h.dropWaiter c)).pushHead _).modChan hc nofun
  · exact h.modChan hc nofun

theorem VacantAre.enterFault {s : State} (h : VacantAre V s) {c : Chan} (hc : ¬V c) (r : FaultReason) :
    VacantAre V (enterFault c r s) := by
  have denied {t : State} (k : VacantAre V t) : VacantAre V (if (t.chan c).manualPending then
      sendDeny c 2 (t.modChan c fun ch => { ch with manualPending := false }) else t) := by
    split
    · exact (k.same (f := fun ch => { ch with manualPending := false }) rfl).pushHead _
    · exact k
  exact ((denied (h.endForFault hc)).takeReported c).notice _

/-! ## Cues -/

theorem VacantAre.takeOrPark {s : State} (h : VacantAre V s) (c : Chan) (call : ParkedCall) :
    VacantAre V (takeOrPark c call s).1 := by
  unfold Machine.takeOrPark
  split
  · exact (h.same (f := fun ch => { ch with parked := some call }) rfl).of_phases fun _ => rfl
  · have k : VacantAre V { s with poolFree := s.poolFree - 1 } := h.of_phases fun _ => rfl
    exact k.same (f := admitCall call) rfl

theorem VacantAre.admitQueueNext {s : State} (h : VacantAre V s) (c : Chan) (call : ParkedCall) :
    VacantAre V (admitQueueNext c call s).1 := by
  unfold Machine.admitQueueNext
  split
  · exact (h.notice _).same rfl
  · exact h.takeOrPark c call

theorem VacantAre.cutMove {s : State} (h : VacantAre V s) (c : Chan) : VacantAre V (cutMove c s) := by
  unfold Machine.cutMove
  split
  · next e => exact h.enterStopping walk (h.not_mem_of e nofun) _ _ _
  · next e => exact h.withdrawMove walk (h.not_mem_of e nofun) _ _ _
  · exact h

theorem VacantAre.callBody {s : State} (h : VacantAre V s) (c : Chan) (p : List Byte) : VacantAre V (callBody c p s).1 := by
  unfold Machine.callBody
  split
  · exact h
  · split
    · exact h
    · dsimp only
      split
      · exact (((h.displaceParked c).flushQueue c).takeOrPark c _).cutMove c
      · exact h.admitQueueNext c _

theorem VacantAre.admitOldest {s : State} (h : VacantAre V s) : VacantAre V (admitOldest s) := by
  unfold Machine.admitOldest
  split
  · exact h
  · split
    · split
      · exact h
      · next c _ _ _ call _ _ =>
        have k : VacantAre V { s with poolFree := s.poolFree - 1, parkOrder := s.parkOrder.erase c } :=
          h.of_phases fun _ => rfl
        exact k.same (f := fun ch => { admitCall call ch with parked := none }) rfl
    · exact h

/-! ## Camera commands and the frames of a head -/

theorem VacantAre.haltAll {s : State} (h : VacantAre V s) : VacantAre V (haltAll s) := by
  refine walk _ (h.foldl (fun t c k => ?_) _)
  split
  · next e => exact k.haltChannel (fun _ => id) (k.not_mem (by simpa [mapped] using e))
  · exact k

theorem VacantAre.resumeBody {s : State} (h : VacantAre V s) {c : Chan} (hc : ¬V c) : VacantAre V (resumeBody c s).1 := by
  unfold Machine.resumeBody
  split
  · exact h.modChan hc nofun
  · exact h

theorem VacantAre.recoverBody {s : State} (h : VacantAre V s) {c : Chan} (hc : ¬V c) : VacantAre V (recoverBody c s).1 := by
  unfold Machine.recoverBody
  split
  · exact h.modChan hc nofun
  · exact h

theorem VacantAre.tallyChannel {s : State} (h : VacantAre V s) (f : Chan → Bool) (c : Chan) :
    VacantAre V (tallyChannel f s c) := by
  simp only [Machine.tallyChannel, tallyChange]
  generalize (if f c = true then Tally.onAir else Tally.offAir) = t
  have k : VacantAre V (s.modChan c fun ch => { ch with tally := t }) := h.same rfl
  split
  · exact h
  · split
    · next e =>
      split
      · exact k
      · exact (k.dropWaiter c).modChan (k.not_mem_of e nofun) nofun
    · next e =>
      split
      · exact k
      · exact k.enterStopping (fun _ => id) (k.not_mem_of e nofun) _ _ _
    · exact k

theorem VacantAre.tallyFrame {s : State} (h : VacantAre V s) (p : List Byte) : VacantAre V (tallyFrame p s) := by
  unfold Machine.tallyFrame
  split
  · exact h
  · exact walk _ (h.foldl (fun t c k => k.tallyChannel _ c) _)

theorem VacantAre.settleTest {s : State} (h : VacantAre V s) (c : Chan) : VacantAre V (settleTest c s) := by
  unfold Machine.settleTest
  split
  · next e =>
    split
    · exact h.moveEnd walk (h.not_mem_of e nofun) _ _
    · exact h
  · exact h

theorem VacantAre.takePosition {s : State} (h : VacantAre V s) {c : Chan} (hc : ¬V c) (f : PositionFields) :
    VacantAre V (takePosition c f s) := by
  have k : VacantAre V (s.modChan c fun ch => validate f (storeReport f ch)) := h.same (by unfold validate; split <;> rfl)
  simp only [Machine.takePosition]
  split
  · have k' : VacantAre V ((s.modChan c fun ch => validate f (storeReport f ch)).modChan c
        fun ch => { ch with followErrors := followCounts f ch }) := k.same rfl
    split
    · exact k'.enterFault hc _
    · exact k'.settleTest c
  · exact k

theorem VacantAre.takeAlarm {s : State} (h : VacantAre V s) {c : Chan} (hc : ¬V c) (b : Byte) :
    VacantAre V (takeAlarm c b s) := by
  unfold Machine.takeAlarm
  split
  · exact h
  · exact h.enterFault hc _

theorem takeJog_phase (d : PerAxis (Option Int)) (x : Channel) :
    (takeJog d x).phase = x.phase ∨ ∃ j, (takeJog d x).phase = .jogging j := by
  simp only [takeJog]
  split
  · exact .inr ⟨_, rfl⟩
  · split
    · split
      · exact .inr ⟨_, rfl⟩
      · exact .inl rfl
    · exact .inl rfl

theorem VacantAre.jogFrame {s : State} (h : VacantAre V s) {c : Chan} (hc : ¬V c) (p : List Byte) :
    VacantAre V (jogFrame c p s) := by
  unfold Machine.jogFrame
  split
  · exact h
  · next d _ =>
    rcases takeJog_phase d (s.chan c) with e | ⟨j, e⟩
    · exact h.same e
    · exact h.modChan hc (by rw [e]; exact nofun)

theorem VacantAre.takeManualRequest {s : State} (h : VacantAre V s) (c : Chan) : VacantAre V (takeManualRequest c s) := by
  unfold Machine.takeManualRequest
  split
  case h_1 e | h_2 e => exact h.enterManualWait walk (h.not_mem_of e nofun) _
  case h_3 | h_4 | h_5 | h_6 | h_7 => exact h.same rfl
  case h_8 => exact (h.pushHead _).notice _
  all_goals exact h

theorem VacantAre.takeManualRelease {s : State} (h : VacantAre V s) (c : Chan) : VacantAre V (takeManualRelease c s) := by
  unfold Machine.takeManualRelease
  split
  · next e => exact ((walk _ (h.dropWaiter c)).notice _).modChan (h.not_mem_of e nofun) (restPhase_ne_vacant _)
  · next e => exact ((h.takeReported c).notice _).modChan (h.not_mem_of e nofun) (restPhase_ne_vacant _)
  · exact h

/-! ## Field events of a channel -/

theorem VacantAre.moveField {s : State} (h : VacantAre V s) {c : Chan} (hc : ¬V c) (m : Move) :
    VacantAre V (moveField c m s) := by
  have k : VacantAre V (emitProfile c m s) := (h.emit _ _).modChan hc nofun
  simp only [Machine.moveField, completeProfile]
  split
  · split
    · exact k.modChan hc nofun
    · exact k.moveEnd walk hc _ _
  · exact k

theorem VacantAre.requestMove {s : State} (h : VacantAre V s) {c : Chan} (hc : ¬V c) (m : Move) :
    VacantAre V (requestMove c m s) := by
  simp only [Machine.requestMove]
  generalize walkPass s.floor.owners [] (s.floor.waiters ++ [⟨c, .move, m.zones⟩]) = r
  have h1 : VacantAre V { s with floor := ⟨r.1, r.2.1⟩ } := h.of_phases fun _ => rfl
  generalize ({ s with floor := ⟨r.1, r.2.1⟩ } : State) = u at h1
  have h2 : VacantAre V (if (r.2.2.any fun w => w.channel == c) = true then u
      else u.modChan c (intoMotion (.zoneWait m))) := by
    split
    · exact h1
    · exact h1.modChan hc nofun
  have h3 := h2.foldl (fun _ x k => k.takeGrant walk x) (r.2.2.filter fun w => w.channel != c)
  split
  · exact h3
  · split
    · exact h3.moveEnd walk hc _ _
    · have k := h3.modChan hc (f := intoMotion (.moving m)) nofun
      exact k.moveField hc m

theorem VacantAre.resolveMove {s : State} (h : VacantAre V s) {c : Chan} (hc : ¬V c) (q : Cue) (r : Shot) :
    VacantAre V (resolveMove c q r s) := by
  simp only [Machine.resolveMove]
  split
  · exact h.same rfl
  · split
    · exact h.moveEnd walk hc _ _
    · split
      · exact h.moveEnd walk hc _ _
      · exact h.requestMove hc _

theorem VacantAre.startAttempt {s : State} (h : VacantAre V s) {c : Chan} (hc : ¬V c) : VacantAre V (startAttempt c s) := by
  simp only [Machine.startAttempt]
  split
  · exact h.enterManualWait walk hc _
  · split
    · exact h
    · split
      · exact h
      · next q qs _ _ =>
        have k : VacantAre V (s.modChan c fun ch => { ch with queue := qs }) := h.same rfl
        split
        · exact k.moveEnd walk hc _ _
        · exact k.resolveMove hc _ _

theorem VacantAre.zoneWaitField {s : State} (h : VacantAre V s) {c : Chan} (hc : ¬V c) (m : Move) :
    VacantAre V (zoneWaitField c m s) := by
  have k (m : Move) : VacantAre V (s.modChan c fun ch => { ch with phase := .zoneWait m }) := h.modChan hc nofun
  simp only [Machine.zoneWaitField]
  split
  · exact (k _).withdrawMove walk hc _ _ _
  · exact k _

theorem VacantAre.stopField {s : State} (h : VacantAre V s) {c : Chan} (hc : ¬V c) (m : Move) (st : Stop) :
    VacantAre V (stopField c m st s) := by
  have k (f : Frame) : VacantAre V ((Machine.emit c f s).modChan c fun ch =>
      { ch with commanded := stopCommanded m st ch, phase := .stopping m { st with step := st.step + 1 } }) :=
    (h.emit c f).modChan hc nofun
  simp only [Machine.stopField]
  split
  · exact (k _).moveEnd walk hc _ _
  · exact k _

theorem VacantAre.settleField {s : State} (h : VacantAre V s) {c : Chan} (hc : ¬V c) (m : Move) :
    VacantAre V (settleField c m s) := by
  have k (m : Move) : VacantAre V (s.modChan c fun ch => { ch with phase := .settling m }) := h.modChan hc nofun
  simp only [Machine.settleField]
  split
  · exact (k _).moveEnd walk hc _ _
  · exact k _

theorem VacantAre.jogField {s : State} (h : VacantAre V s) {c : Chan} (hc : ¬V c) (j : Jog) :
    VacantAre V (jogField c j s) := by
  have k (f : Frame) (p : PerAxis Int) (j : Jog) : VacantAre V ((Machine.emit c f s).modChan c fun ch =>
      { ch with commanded := p, phase := .jogging j }) := (h.emit c f).modChan hc nofun
  simp only [Machine.jogField]
  split
  · exact (k _ _ _).enterRest walk hc _
  · exact k _ _ _

theorem VacantAre.manualWaitField {s : State} (h : VacantAre V s) {c : Chan} (hc : ¬V c) (r : RestState) (n : Nat) :
    VacantAre V (manualWaitField c r n s) := by
  have k : VacantAre V (s.modChan c fun ch => { ch with phase := .manualWait r (nextCount n) }) := h.modChan hc nofun
  simp only [Machine.manualWaitField]
  split
  · exact (((walk _ (k.dropWaiter c)).pushHead _).notice _).modChan hc (restPhase_ne_vacant r)
  · exact k

theorem VacantAre.fieldWork {s : State} (h : VacantAre V s) {c : Chan} (hc : ¬V c) : VacantAre V (fieldWork c s) := by
  unfold Machine.fieldWork
  split
  · exact h.startAttempt hc
  · exact h.zoneWaitField hc _
  · exact h.moveField hc _
  · exact h.stopField hc _ _
  · exact h.settleField hc _
  · exact h.jogField hc _
  · exact h.manualWaitField hc _ _
  all_goals exact h

theorem VacantAre.takeField {s : State} (h : VacantAre V s) (c : Chan) : VacantAre V (takeField c s) := by
  unfold Machine.takeField
  split
  · exact h
  · split
    · exact h.same rfl
    · next e =>
      have hc : ¬V c := h.not_mem (by simpa [mapped] using e)
      have k : VacantAre V (s.modChan c bookkeep) := h.same rfl
      dsimp only
      split
      · exact k.enterFault hc _
      · exact k.fieldWork hc

theorem VacantAre.grantStep {s : State} (h : VacantAre V s) (k : WaiterKind) (c : Chan) : VacantAre V (grantStep k c s) := by
  unfold Machine.grantStep
  split
  · exact h
  · split
    · exact ((h.dropWaiter c).setFloor _).takeGrant walk _
    · exact h

theorem VacantAre.zoneReleaseBody {s : State} (h : VacantAre V s) (p : List Byte) : VacantAre V (zoneReleaseBody p s).1 := by
  unfold Machine.zoneReleaseBody
  split
  · split
    · exact h
    · split
      · exact walk _ (h.freeZones _)
      · exact h
  · exact h

end Sys2Proof.Machine
end

section
/-! What the payload readers answer: the values a field can have, and when a record's fields are refused (R6, R23, R55,
R181). -/

namespace Sys2Proof.Machine

/-! ## Bytes, channel numbers and zone lists -/

theorem u16_le (hi lo : Byte) : u16 hi lo ≤ 65535 := by
  have := hi.isLt
  have := lo.isLt
  unfold u16
  omega

/-- A 3-byte field is a position of the position range (R181). -/
theorem s24_range (a b c : Byte) : Config.positionMin ≤ s24 a b c ∧ s24 a b c ≤ Config.positionMax := by
  have := a.isLt
  have := b.isLt
  have := c.isLt
  simp only [s24, Config.positionMin, Config.positionMax]
  split <;> omega

theorem chanOf_eq_some_iff {b : Byte} {c : Chan} : chanOf b = some c ↔ c.val = b.toNat := by
  unfold chanOf
  split
  · rw [Option.some.injEq, Fin.ext_iff, eq_comm]
  · next h =>
    have := c.isLt
    exact ⟨nofun, fun e => absurd (e ▸ this) h⟩

theorem chanOf_eq_none_iff {b : Byte} : chanOf b = none ↔ 16 ≤ b.toNat := by
  unfold chanOf
  split
  · exact ⟨nofun, fun _ => by omega⟩
  · exact ⟨fun _ => by omega, fun _ => rfl⟩

theorem chanOf_lt {b : Byte} {c : Chan} (h : chanOf b = some c) : b.toNat < 16 := chanOf_eq_some_iff.1 h ▸ c.isLt

/-- A channel number byte that is read is the byte of its channel. -/
theorem chanByte_of_chanOf {b : Byte} {c : Chan} (h : chanOf b = some c) : chanByte c = b := by
  rw [chanOf_eq_some_iff] at h
  rw [chanByte, h, BitVec.ofNat_toNat, BitVec.setWidth_eq]

theorem chanOf_chanByte (c : Chan) : chanOf (chanByte c) = some c := by
  rw [chanOf_eq_some_iff, chanByte, BitVec.toNat_ofNat, Nat.mod_eq_of_lt (by omega)]

theorem zoneOf_eq_some_iff {b : Byte} {z : Zone} : zoneOf b = some z ↔ z.val = b.toNat := by
  unfold zoneOf
  split
  · rw [Option.some.injEq, Fin.ext_iff, eq_comm]
  · next h =>
    have := z.isLt
    exact ⟨nofun, fun e => absurd (e ▸ this) h⟩

theorem zonesOf_cons (b : Byte) (bs : List Byte) :
    zonesOf (b :: bs) = (zoneOf b).bind fun z => (zonesOf bs).map (z :: ·) := by
  rw [zonesOf]
  cases zoneOf b <;> cases zonesOf bs <;> rfl

/-- The zones read are those of the bytes, one for each. -/
theorem zonesOf_eq_some_iff {bs : List Byte} {zs : List Zone} :
    zonesOf bs = some zs ↔ zs.map Fin.val = bs.map BitVec.toNat := by
  induction bs generalizing zs with
  | nil =>
    rw [zonesOf, Option.some.injEq, List.map_nil, List.map_eq_nil_iff]
    exact eq_comm
  | cons b bs ih =>
    cases zs with
    | nil => simp [zonesOf_cons, Option.bind_eq_some_iff]
    | cons z zs => simp [zonesOf_cons, Option.bind_eq_some_iff, ← zoneOf_eq_some_iff, ← ih]

theorem zonesOf_eq_none_iff {bs : List Byte} : zonesOf bs = none ↔ ∃ b ∈ bs, 24 ≤ b.toNat := by
  induction bs with
  | nil => simp [zonesOf]
  | cons b bs ih =>
    rw [List.exists_mem_cons_iff, ← ih, zonesOf_cons]
    unfold zoneOf
    split
    · next h => simp [Nat.not_le.2 h]
    · next h => simp [Nat.not_lt.1 h]

theorem zonesOf_length {bs : List Byte} {zs : List Zone} (h : zonesOf bs = some zs) : zs.length = bs.length := by
  simpa using congrArg List.length (zonesOf_eq_some_iff.1 h)

theorem zonesOf_lt {bs : List Byte} {zs : List Zone} (h : zonesOf bs = some zs) : ∀ b ∈ bs, b.toNat < 24 := by
  intro b hb
  by_contra k
  rw [zonesOf_eq_none_iff.2 ⟨b, hb, Nat.not_lt.1 k⟩] at h
  cases h

theorem zonesOf_nodup {bs : List Byte} {zs : List Zone} (h : zonesOf bs = some zs) : zs.Nodup ↔ bs.Nodup := by
  rw [← List.nodup_map_iff Fin.val_injective, zonesOf_eq_some_iff.1 h,
    List.nodup_map_iff fun _ _ => BitVec.eq_of_toNat_eq]

/-! ## Shot records (R3, R6) -/

theorem readAxis_range {p : Bool} {bs rest : List Byte} {x : Option Int} (h : readAxis p bs = some (x, rest)) {t : Int}
    (ht : x = some t) : Config.positionMin ≤ t ∧ t ≤ Config.positionMax := by
  subst ht
  unfold readAxis at h
  split at h
  · split at h
    · cases h
      exact s24_range _ _ _
    · cases h
  · cases h

/-- Every target read is a position of the position range (R181). -/
theorem readAxes_range {mask : Byte} {bs : List Byte} {v : PerAxis (Option Int)} (h : readAxes mask bs = some v) (a : Axis)
    {t : Int} (ht : v.get a = some t) : Config.positionMin ≤ t ∧ t ≤ Config.positionMax := by
  simp only [readAxes, Option.bind_eq_bind, Option.bind_eq_some_iff, Prod.exists] at h
  obtain ⟨_, _, _, _, h1, _, _, h2, _, _, h3, _, _, h4, _, _, h5, _, _, h6, h⟩ := h
  split at h
  · cases h
    cases a
    · exact readAxis_range h1 ht
    · exact readAxis_range h2 ht
    · exact readAxis_range h3 ht
    · exact readAxis_range h4 ht
    · exact readAxis_range h5 ht
    · exact readAxis_range h6 ht
  · cases h

theorem readOpt8_le {p : Bool} {bs rest : List Byte} {x : Option Nat} (h : readOpt8 p bs = some (x, rest)) {e : Nat}
    (he : x = some e) : e ≤ 255 := by
  subst he
  unfold readOpt8 at h
  split at h
  · split at h
    · next b _ =>
      cases h
      have := b.isLt
      omega
    · cases h
  · cases h

/-- The ease and the targets of a shot record as read fit their fields (R183). -/
theorem readShot_range {payload : List Byte} {f : ShotFields} (h : readShot payload = some f) :
    (∀ e, f.ease = some e → e ≤ 255)
      ∧ ∀ a t, f.targets.get a = some t → Config.positionMin ≤ t ∧ t ≤ Config.positionMax := by
  unfold readShot at h
  split at h
  · simp only [Option.bind_eq_bind, Option.bind_eq_some_iff, Prod.exists] at h
    obtain ⟨_, _, h1, _, _, _, _, _, _, _, _, _, _, h2, h⟩ := h
    cases h
    exact ⟨fun e => readOpt8_le h1, fun a t => readAxes_range h2 a⟩
  · cases h

/-- The fields of a SHOT WRITE in the ranges of R6. -/
abbrev ShotFieldsOk (f : ShotFields) : Prop :=
  f.channel.toNat < 16 ∧ f.number ≠ 0 ∧ f.number ≤ 999 ∧ f.flags.toNat < 8 ∧ f.ease ≠ some 0
    ∧ (∀ d, f.duration = some d → 2 ≤ d ∧ d ≤ 4095) ∧ f.route.length ≤ 8 ∧ f.rest.length ≤ 4
    ∧ (∀ b ∈ f.route ++ f.rest, b.toNat < 24) ∧ f.route.Nodup ∧ f.rest.Nodup

/-- Which record the fields of a SHOT WRITE carry (R6). -/
theorem shotOf_eq_some_iff {f : ShotFields} {r : Shot} : shotOf f = some r ↔ ShotFieldsOk f
    ∧ chanOf f.channel = some r.channel ∧ zonesOf f.route = some r.route ∧ zonesOf f.rest = some r.rest
    ∧ r.number = f.number ∧ r.live = f.flags.getLsbD 0 ∧ r.targets = f.targets ∧ r.ease = f.ease
    ∧ r.duration = f.duration := by
  constructor
  · intro h
    unfold shotOf at h
    split at h
    · next c route rest hc hroute hrest =>
      rw [Option.ite_none_right_eq_some] at h
      obtain ⟨ok, e⟩ := h
      cases e
      simp only [Bool.and_eq_true, decide_eq_true_eq, bne_iff_ne, shotNumberOk] at ok
      obtain ⟨⟨⟨⟨⟨⟨⟨number, flags⟩, ease⟩, duration⟩, routeLen⟩, restLen⟩, routeNodup⟩, restNodup⟩ := ok
      rw [zonesOf_length hroute] at routeLen
      rw [zonesOf_length hrest] at restLen
      rw [zonesOf_nodup hroute] at routeNodup
      rw [zonesOf_nodup hrest] at restNodup
      have zones := List.forall_mem_append.2 ⟨zonesOf_lt hroute, zonesOf_lt hrest⟩
      refine ⟨⟨chanOf_lt hc, by omega, number.2, flags, ease, fun d hd => ?_, routeLen, restLen, zones, routeNodup,
        restNodup⟩, hc, hroute, hrest, rfl, rfl, rfl, rfl, rfl⟩
      exact (by simpa [hd] using duration : 2 ≤ d ∧ d ≤ Config.maxDuration)
    · cases h
  · rintro ⟨⟨-, n0, n1, flags, ease, duration, routeLen, restLen, -, routeNodup, restNodup⟩, hc, hroute, hrest,
      e1, e2, e3, e4, e5⟩
    rw [← zonesOf_length hroute] at routeLen
    rw [← zonesOf_length hrest] at restLen
    rw [← zonesOf_nodup hroute] at routeNodup
    rw [← zonesOf_nodup hrest] at restNodup
    cases r
    subst e1 e2 e3 e4 e5
    unfold shotOf
    simp only [hc, hroute, hrest]
    have number : 1 ≤ f.number := by omega
    cases hd : f.duration with
    | none => simp [shotNumberOk, *]
    | some d =>
      have := duration d hd
      simp [shotNumberOk, Config.maxDuration, *]

/-- A record that a SHOT WRITE stores is one that it could have stored (R3, R6). -/
theorem shotOf_ok {payload : List Byte} {f : ShotFields} {r : Shot} (h : readShot payload = some f)
    (k : shotOf f = some r) : ShotOk r := by
  obtain ⟨easeLe, targets⟩ := readShot_range h
  obtain ⟨⟨-, n0, n1, -, ease, duration, routeLen, restLen, -, routeNodup, restNodup⟩, -, hroute, hrest,
    e1, -, e3, e4, e5⟩ := shotOf_eq_some_iff.1 k
  rw [ShotOk, e1, e3, e4, e5, zonesOf_length hroute, zonesOf_length hrest, zonesOf_nodup hroute, zonesOf_nodup hrest]
  refine ⟨by omega, n1, fun e he => ⟨?_, easeLe e he⟩, duration, routeLen, restLen, routeNodup, restNodup, targets⟩
  rcases Nat.eq_zero_or_pos e with rfl | pos
  · exact absurd he ease
  · exact pos

/-! ## Limit and configuration records (R20, R23, R54, R55) -/

/-- A limit record that passes the conditions of R23 is within its ranges. -/
theorem readLimit_ok {payload : List Byte} {f : LimitFields} (h : readLimit payload = some f)
    (k : limitsOk f.limits = true) : LimitRangeOk f.limits := by
  unfold readLimit at h
  split at h
  · cases h
    simp only [limitsOk, Bool.and_eq_true, decide_eq_true_eq, bne_iff_ne, ne_eq] at k
    obtain ⟨⟨⟨⟨⟨order, vmax⟩, amax⟩, vlive⟩, alive⟩, astop⟩ := k
    exact ⟨⟨(s24_range _ _ _).1, order, (s24_range _ _ _).2⟩, ⟨Nat.pos_of_ne_zero vmax, u16_le _ _⟩,
      ⟨Nat.pos_of_ne_zero amax, u16_le _ _⟩, ⟨Nat.pos_of_ne_zero vlive, u16_le _ _⟩,
      ⟨Nat.pos_of_ne_zero alive, u16_le _ _⟩, ⟨Nat.pos_of_ne_zero astop, u16_le _ _⟩, u16_le _ _, u16_le _ _⟩
  · cases h

/-- A configuration record that passes check 5 of R55, and whose queue limit is at most 8, is within its ranges. -/
theorem cameraOf_ok {payload : List Byte} {f : CameraFields} {r : CameraConfig} (h : readCamera payload = some f)
    (k : cameraOf f = some r) (q : r.queueLimit ≤ 8) : ConfigOk r ∧ r.link = f.link := by
  unfold readCamera at h
  split at h
  · next ch link mask ease ql z1 z0 st rt lat n zs =>
    split at h
    · cases h
      unfold cameraOf at k
      split at k
      · split at k
        · split at k
          · next ok =>
            cases k
            simp only [Bool.and_eq_true, decide_eq_true_eq, bne_iff_ne, ne_eq] at ok
            obtain ⟨⟨⟨⟨⟨⟨hlink, hease⟩, wait⟩, settle⟩, timeout⟩, zonesLen⟩, zonesNodup⟩ := ok
            exact ⟨⟨hlink, ⟨Nat.pos_of_ne_zero hease, Nat.le_of_lt_succ ease.isLt⟩, q, wait,
              ⟨Nat.pos_of_ne_zero settle, Nat.le_of_lt_succ st.isLt⟩,
              ⟨Nat.pos_of_ne_zero timeout, Nat.le_of_lt_succ rt.isLt⟩, zonesLen, zonesNodup⟩, rfl⟩
          · cases k
        · cases k
      · cases k
    · cases h
  · cases h

end Sys2Proof.Machine
end

section
/-! The part's invariant, block by block: what a change of one channel, of the queues and lines, and of the Reference Monitor
must keep, and that every command keeps it. -/

namespace Sys2Proof.Machine

/-! ## The invariant of one channel -/

/-- What the part's invariant says of one channel alone. -/
structure ChannelOk (x : Channel) : Prop where
  liveRates : AllLimits LiveRatesOk x
  ranges : AllLimits LimitRangeOk x
  pendingLimits : inMotion x.phase = false → x.pendingLimits = .all none
  counts : x.reportAge ≤ Config.maxReportAge ∧ ∀ a, x.followErrors.get a ≤ Config.followErrorLimit
  config : ConfigOk x.config
  mapped : x.phase = .vacant ↔ x.config.link = 0

/-- A link address that a channel may have beside those of the part and of the other channels (R55, check 4). -/
def LinkFits (s : State) (c : Chan) (link : Byte) : Prop :=
  link ≠ 0 → link ≠ s.partAddress ∧ ∀ d, d ≠ c → (s.chan d).config.link ≠ link

/-- The channels whose link address is 0. -/
def Unlinked (s : State) (c : Chan) : Prop := (s.chan c).config.link = 0

theorem PartOk.channel {s : State} (h : PartOk s) (c : Chan) : ChannelOk (s.chan c) where
  liveRates := h.limits c
  ranges := fun a => ⟨h.records.limits c a, h.records.pendingLimits c a⟩
  pendingLimits := h.pendingLimits c
  counts := h.counts c
  config := h.records.config c
  mapped := h.records.mapped c

theorem PartOk.linkFits {s : State} (h : PartOk s) (c : Chan) : LinkFits s c (s.chan c).config.link := fun k =>
  ⟨(h.records.links c k).1, fun d n e => n ((h.records.links c k).2 d e)⟩

/-- The VACANT channels are those whose link address is 0 (R54). -/
theorem PartOk.vacant {s : State} (h : PartOk s) : VacantAre (Unlinked s) s := h.records.mapped

theorem PartOk.not_unlinked {s : State} (h : PartOk s) {c : Chan} (k : Machine.mapped (s.chan c) = true) : ¬Unlinked s c :=
  h.vacant.not_mem (by simpa [Machine.mapped] using k)

/-- A change of one channel that leaves its own invariant, with a link address that fits. -/
theorem PartOk.modChan {s : State} (h : PartOk s) {c : Chan} {f : Channel → Channel} (k : ChannelOk (f (s.chan c)))
    (fits : LinkFits s c (f (s.chan c)).config.link) : PartOk (s.modChan c f) := by
  have channel (d : Chan) : ChannelOk ((s.modChan c f).chan d) := by
    rw [modChan_chan]
    split
    · exact k
    · exact h.channel d
  refine ⟨h.directory, fun d => (channel d).liveRates, fun d => (channel d).pendingLimits, fun d => (channel d).counts,
    h.outbound, h.link, h.quiet, h.monitor, h.heldPeriod, ⟨h.records.address, h.records.shots,
      fun d a => ((channel d).ranges a).1, fun d a => ((channel d).ranges a).2, fun d => (channel d).config,
      fun d => (channel d).mapped, fun d hd => ⟨?_, fun e he => ?_⟩⟩⟩
  · rw [modChan_chan] at hd ⊢
    split at hd
    · next e => rw [if_pos e]; exact (fits hd).1
    · next e => rw [if_neg e]; exact (h.records.links d hd).1
  · simp only [modChan_chan] at hd he
    by_cases ec : e = c <;> by_cases dc : d = c
    · rw [ec, dc]
    · rw [if_neg dc] at hd he
      rw [if_pos ec] at he
      exact absurd he.symm ((fits (he ▸ hd)).2 d dc)
    · rw [if_pos dc] at hd he
      rw [if_neg ec] at he
      exact absurd he ((fits hd).2 e ec)
    · rw [if_neg dc] at hd he
      rw [if_neg ec] at he
      exact (h.records.links d hd).2 e he

/-- A change of one channel that leaves its own invariant and its link address. -/
theorem PartOk.modChan_same {s : State} (h : PartOk s) {c : Chan} {f : Channel → Channel} (k : ChannelOk (f (s.chan c)))
    (e : (f (s.chan c)).config.link = (s.chan c).config.link) : PartOk (s.modChan c f) :=
  h.modChan k (e ▸ h.linkFits c)

/-! ## The other blocks -/

/-- A change that leaves the channels, the shots and the part address. -/
theorem PartOk.blocks {s t : State} (h : PartOk s) (address : t.partAddress = s.partAddress) (shots : t.shots = s.shots)
    (channels : t.channels = s.channels) (outbound : OutboundOk t) (link : LinkOk t) (quiet : QuietOk t)
    (monitor : MonitorOk t) (heldPeriod : HeldPeriodOk t) : PartOk t := by
  have chan (c : Chan) : t.chan c = s.chan c := by simp only [State.chan, channels]
  refine ⟨?_, ?_, ?_, ?_, outbound, link, quiet, monitor, heldPeriod, ⟨?_, ?_, ?_, ?_, ?_, ?_, ?_⟩⟩
  · rw [DirectoryOk, shots]; exact h.directory
  · simpa only [LimitsOk, chan] using h.limits
  · simpa only [PendingOk, chan] using h.pendingLimits
  · simpa only [CountsOk, chan] using h.counts
  · rw [address]; exact h.records.address
  · rw [shots]; exact h.records.shots
  · simpa only [chan] using h.records.limits
  · simpa only [chan] using h.records.pendingLimits
  · simpa only [chan] using h.records.config
  · simpa only [chan] using h.records.mapped
  · simpa only [chan, address] using h.records.links

/-- Work that leaves which channels are VACANT keeps the invariant. -/
theorem PartOk.keeps {s t : State} (h : PartOk s) (k : Keeps s t) (v : VacantAre (Unlinked s) t) : PartOk t where
  directory := by rw [DirectoryOk, k.shots]; exact h.directory
  limits := Keeps_liveRates k h.limits
  pendingLimits := k.pendingLimits h.pendingLimits
  counts := k.counts h.counts
  outbound := k.outbound h.outbound
  link := ⟨k.downstream ▸ h.link.1, k.upstream ▸ h.link.2.1, k.headControl h.link.2.2⟩
  quiet := by rw [QuietOk, k.reached, k.headLine, k.controlLine]; exact h.quiet
  monitor := by rw [MonitorOk, k.monitor]; exact h.monitor
  heldPeriod := by rw [HeldPeriodOk, k.monitor]; exact h.heldPeriod
  records :=
    have ranges := Keeps_limitRanges k fun c => (h.channel c).ranges
    { address := k.partAddress ▸ h.records.address
      shots := k.shots ▸ h.records.shots
      limits := fun c a => (ranges c a).1
      pendingLimits := fun c a => (ranges c a).2
      config := fun c => k.config c ▸ h.records.config c
      mapped := fun c => by rw [v c, Unlinked, k.config]
      links := by simpa only [k.config, k.partAddress] using h.records.links }

theorem PartOk.notice {s : State} (h : PartOk s) (p : List Byte) : PartOk (notice p s) :=
  h.keeps (notice_keeps p s) (h.vacant.notice p)

/-- The Link Interface changed, without a frame on a line. -/
theorem PartOk.setLink {s : State} (h : PartOk s) {l : Link} (k : LinkOk { s with link := l })
    (q : QuietOk { s with link := l }) : PartOk { s with link := l } :=
  h.blocks rfl rfl rfl h.outbound k q h.monitor h.heldPeriod

theorem PartOk.setRx {s : State} (h : PartOk s) (p : Port) (bytes : List Byte) : PartOk (setRx p bytes s) := by
  cases p
  · exact h.setLink h.link h.quiet
  · exact h.setLink h.link h.quiet

theorem PartOk.arrive {s : State} (h : PartOk s) (p : Port) : PartOk (arrive p s) :=
  (h.setLink (l := { s.link with reached := true }) h.link nofun).setRx p []

theorem PartOk.forwardDown {s : State} (h : PartOk s) (f : Frame) : PartOk (forwardDown f s) := by
  unfold Machine.forwardDown
  split
  · next room =>
    refine h.setLink ⟨?_, h.link.2⟩ h.quiet
    simpa using room
  · exact h

theorem PartOk.forwardUp {s : State} (h : PartOk s) (f : Frame) : PartOk (forwardUp f s) := by
  unfold Machine.forwardUp
  split
  · next room =>
    refine h.setLink ⟨h.link.1, ?_, h.link.2.2⟩ h.quiet
    simpa using room
  · exact h

/-- The Outbound Queue changed, within its capacity. -/
theorem PartOk.setOut {s : State} (h : PartOk s) {o : Outbound} (k : OutboundOk { s with out := o }) :
    PartOk { s with out := o } := h.blocks rfl rfl rfl k h.link h.quiet h.monitor h.heldPeriod

/-- A frame that requires an answer keeps the invariant when its execution does, and keeps the reserved places, from the
state in which its entry is reserved (R186). -/
theorem PartOk.answered {s : State} (h : PartOk s) {kind : Byte} {body : State → State × Reply}
    (hb : PartOk (reserve s) → PartOk (body (reserve s)).1)
    (hr : (body (reserve s)).1.out.reserved = (reserve s).out.reserved) : PartOk (answered kind body s) := by
  by_cases full : s.outFree = 0
  · rwa [answered_full full]
  · rw [answered_free full]
    have out := h.outbound
    have k : PartOk (body (reserve s)).1 := hb (h.setOut (by
      simp only [OutboundOk, State.outFree, Config.outboundCapacity] at full out ⊢
      omega))
    refine k.setOut ?_
    have := k.outbound
    simp only [OutboundOk, List.length_append, List.length_singleton, hr, reserve_reserved] at this ⊢
    omega

/-- The directory changed: in order, within its capacity, and its records within their ranges. -/
theorem PartOk.setShots {s : State} (h : PartOk s) {rs : List Shot} (k : DirectoryOk { s with shots := rs })
    (ok : ∀ r ∈ rs, ShotOk r) : PartOk { s with shots := rs } :=
  ⟨k, h.limits, h.pendingLimits, h.counts, h.outbound, h.link, h.quiet, h.monitor, h.heldPeriod,
    ⟨h.records.address, ok, h.records.limits, h.records.pendingLimits, h.records.config, h.records.mapped, h.records.links⟩⟩

end Sys2Proof.Machine
end

section
/-! Every received frame keeps the part's invariant (R171 to R175). -/

namespace Sys2Proof.Machine

/-! ## SHOT WRITE and SHOT ERASE (R6 to R9) -/

theorem mem_putShot {r x : Shot} {rs : List Shot} (h : x ∈ putShot r rs) : x = r ∨ x ∈ rs :=
  (mem_insertShot.1 h).imp_right List.mem_of_mem_filter

theorem PartOk.shotWriteBody {s : State} (h : PartOk s) (p : List Byte) : PartOk (shotWriteBody p s).1 := by
  unfold Machine.shotWriteBody
  split
  · exact h
  · next f hf =>
    split
    · exact h
    · next r hr =>
      dsimp only
      split
      · exact h
      · next room =>
        refine h.setShots ⟨?_, putShot_pairwise h.directory.2 r⟩ fun x hx => ?_
        · have length := length_putShot h.directory.2 r
          have := h.directory.1
          rw [length]
          split
          · exact this
          · next absent => simp_all [State.findShot]
        · rcases mem_putShot hx with rfl | hx
          · exact shotOf_ok hf hr
          · exact h.records.shots x hx

theorem shotWriteBody_out (p : List Byte) (s : State) : (shotWriteBody p s).1.out = s.out := by
  unfold shotWriteBody
  split
  · rfl
  · split
    · rfl
    · dsimp only
      split <;> rfl

theorem PartOk.shotEraseBody {s : State} (h : PartOk s) (p : List Byte) : PartOk (shotEraseBody p s).1 := by
  unfold Machine.shotEraseBody
  split
  · split
    · exact h
    · dsimp only
      split
      · exact h
      · split
        · exact h
        · exact h.setShots ⟨(List.length_filter_le _ _).trans h.directory.1, eraseShot_pairwise h.directory.2 _ _⟩
            fun x hx => h.records.shots x (List.mem_of_mem_filter hx)
  · exact h

theorem shotEraseBody_out (p : List Byte) (s : State) : (shotEraseBody p s).1.out = s.out := by
  unfold shotEraseBody
  split
  · split
    · rfl
    · dsimp only
      split
      · rfl
      · split <;> rfl
  · rfl

/-! ## LIMIT WRITE (R22 to R25) -/

/-- A record stored for one axis, effective or pending, among records that have a property. -/
theorem AllLimits_storeLimits {P : Limits → Prop} {a : Axis} {l : Limits} {x : Channel} (h : AllLimits P x)
    (hl : P (clampLive l)) : AllLimits P (storeLimits a l x) := by
  intro b
  unfold storeLimits
  split
  · refine ⟨(h b).1, fun r hr => ?_⟩
    rw [PerAxis_get_set] at hr
    split at hr
    · cases hr
      exact hl
    · exact (h b).2 r hr
  · refine ⟨?_, (h b).2⟩
    rw [PerAxis_get_set]
    split
    · exact hl
    · exact (h b).1

theorem storeLimits_ok {a : Axis} {l : Limits} {x : Channel} (h : ChannelOk x) (hl : LimitRangeOk l) :
    ChannelOk (storeLimits a l x) where
  liveRates := AllLimits_storeLimits h.liveRates (clampLive_ok l)
  ranges := AllLimits_storeLimits h.ranges (clampLive_range hl)
  pendingLimits := by
    unfold storeLimits
    split
    · next e => exact fun n => nomatch e.symm.trans n
    · exact h.pendingLimits
  counts := by unfold storeLimits; split <;> exact h.counts
  config := by unfold storeLimits; split <;> exact h.config
  mapped := by unfold storeLimits; split <;> exact h.mapped

theorem PartOk.limitWriteBody {s : State} (h : PartOk s) (p : List Byte) : PartOk (limitWriteBody p s).1 := by
  unfold Machine.limitWriteBody
  split
  · exact h
  · next f hf =>
    split
    · split
      · next ok =>
        refine h.modChan_same (storeLimits_ok (h.channel _) (readLimit_ok hf ok)) ?_
        unfold storeLimits
        split <;> rfl
      · exact h
    · exact h

theorem limitWriteBody_out (p : List Byte) (s : State) : (limitWriteBody p s).1.out = s.out := by
  unfold limitWriteBody
  split
  · rfl
  · split
    · split <;> rfl
    · rfl

/-! ## CAMERA WRITE (R55 to R59) -/

/-- A link address that passes check 4 of R55 fits. -/
theorem linkFits_of_not_taken {s : State} {c : Chan} {link : Byte} (h : ¬linkTaken s c link = true) :
    LinkFits s c link := by
  intro nonzero
  simp only [linkTaken, Bool.and_eq_true, Bool.or_eq_true, bne_iff_ne, beq_iff_eq, List.any_eq_true, not_and, not_or] at h
  obtain ⟨own, others⟩ := h nonzero
  exact ⟨own, fun d hd e => others ⟨d, mem_allChans d, hd, e⟩⟩

/-- The motion set holds no state in which a channel's records may be written (R53, R55). -/
theorem not_inMotion_of_writable {p : Phase} (h : writable p = true) : inMotion p = false := by
  cases p <;> simp_all [writable, inMotion]

/-- A channel out of the motion set with a new record, in the state that record's link address calls for, with its counts as
they were or 0. -/
theorem ChannelOk.setConfig {x y : Channel} (h : ChannelOk x) {r : CameraConfig} (hr : ConfigOk r)
    (config : y.config = r) (limits : y.limits = x.limits) (pendingLimits : y.pendingLimits = x.pendingLimits)
    (still : inMotion x.phase = false) (mapped : y.phase = .vacant ↔ r.link = 0)
    (age : y.reportAge = x.reportAge ∨ y.reportAge = 0)
    (errors : y.followErrors = x.followErrors ∨ y.followErrors = .all 0) : ChannelOk y where
  liveRates := by simpa only [AllLimits, limits, pendingLimits] using h.liveRates
  ranges := by simpa only [AllLimits, limits, pendingLimits] using h.ranges
  pendingLimits := fun _ => pendingLimits.trans (h.pendingLimits still)
  counts := by
    refine ⟨?_, fun a => ?_⟩
    · rcases age with e | e <;> rw [e]
      · exact h.counts.1
      · exact Nat.zero_le _
    · rcases errors with e | e <;> rw [e]
      · exact h.counts.2 a
      · simp
  config := config ▸ hr
  mapped := config ▸ mapped

theorem PartOk.unmapChannel {s : State} (h : PartOk s) {c : Chan} {r : CameraConfig} (hr : ConfigOk r) (hl : r.link = 0)
    (hw : writable (s.chan c).phase = true) : PartOk (unmapChannel c r s) := by
  have k1 : Keeps s (displaceParked c (flushQueue c s)) := Keeps_trans (flushQueue_keeps c s) (displaceParked_keeps c _)
  have v1 : VacantAre (Unlinked s) (displaceParked c (flushQueue c s)) := (h.vacant.flushQueue c).displaceParked c
  have phase1 : ((displaceParked c (flushQueue c s)).chan c).phase = (s.chan c).phase :=
    ((displaceParked_waits c _).phases c).trans ((flushQueue_waits c s).phases c)
  simp only [Machine.unmapChannel]
  generalize displaceParked c (flushQueue c s) = t at k1 v1 phase1
  have k2 : Keeps s (walk (freeZones (t.zonesOf c) t)) := Keeps_trans k1 (Keeps_trans (freeZones_keeps _ t) (walk_keeps _))
  have v2 : VacantAre (Unlinked s) (walk (freeZones (t.zonesOf c) t)) := VacantAre.walk _ (v1.freeZones _)
  have phase2 : ((walk (freeZones (t.zonesOf c) t)).chan c).phase = (s.chan c).phase := by
    have unserved := LeavesUnserved_walk c (freeZones (t.zonesOf c) t)
    simp only [freeZones_chan, phase1] at unserved
    refine (Aside_phase (unserved ?_ ?_)).trans phase1
    · exact fun m e => by rw [e] at hw; cases hw
    · exact fun q n e => by rw [e] at hw; cases hw
  have ok := h.keeps k2 v2
  refine ok.modChan (ChannelOk.setConfig (ok.channel c) hr rfl rfl rfl ?_ ⟨fun _ => hl, fun _ => rfl⟩ (.inr rfl) (.inr rfl))
    fun n => absurd hl n
  rw [phase2]
  exact not_inMotion_of_writable hw

theorem PartOk.storeCamera {s : State} (h : PartOk s) {c : Chan} {r : CameraConfig} (hr : ConfigOk r)
    (fits : LinkFits s c r.link) (hw : writable (s.chan c).phase = true) : PartOk (storeCamera c r s) := by
  have still := not_inMotion_of_writable hw
  unfold Machine.storeCamera
  split
  · next e _ => exact h.unmapChannel hr (of_decide_eq_true e) hw
  · next e m =>
    have vacant : (s.chan c).phase = .vacant := by simpa [Machine.mapped] using m
    exact h.modChan (ChannelOk.setConfig (h.channel c) hr rfl rfl rfl still
      ⟨fun _ => of_decide_eq_true e, fun _ => vacant⟩ (.inl rfl) (.inl rfl)) fits
  · next e _ =>
    exact h.modChan (ChannelOk.setConfig (h.channel c) hr rfl rfl rfl still ⟨nofun, fun n => absurd n (of_decide_eq_false e)⟩
      (.inr rfl) (.inr rfl)) fits
  · next e m =>
    have notVacant : (s.chan c).phase ≠ .vacant := by simpa [Machine.mapped] using m
    have mapped : (s.chan c).phase = .vacant ↔ r.link = 0 :=
      ⟨fun n => absurd n notVacant, fun n => absurd n (of_decide_eq_false e)⟩
    have config : (rewriteChannel r (s.chan c)).config = r := by unfold rewriteChannel; split <;> rfl
    refine h.modChan ?_ (by rw [config]; exact fits)
    unfold rewriteChannel
    split
    · exact (h.channel c).setConfig hr rfl rfl rfl still mapped (.inl rfl) (.inl rfl)
    · exact (h.channel c).setConfig hr rfl rfl rfl still mapped (.inr rfl) (.inl rfl)

theorem PartOk.cameraWriteBody {s : State} (h : PartOk s) (p : List Byte) : PartOk (cameraWriteBody p s).1 := by
  unfold Machine.cameraWriteBody
  split
  · exact h
  · next f hf =>
    split
    · exact h
    · next c _ =>
      split
      · exact h
      · next hw =>
        have hw : writable (s.chan c).phase = true := by simpa using hw
        split
        · exact h
        · next taken =>
          split
          · exact h
          · next r hr =>
            split
            · have x := h.channel c
              obtain ⟨link, ease, -, others⟩ := x.config
              have ok : ConfigOk { (s.chan c).config with queueLimit := 0 } := ⟨link, ease, Nat.zero_le _, others⟩
              exact h.modChan_same (f := fun ch => { ch with config := { ch.config with queueLimit := 0 } })
                (x.setConfig ok rfl rfl rfl (not_inMotion_of_writable hw) x.mapped (.inl rfl) (.inl rfl)) rfl
            · next queueLimit =>
              obtain ⟨ok, link⟩ := cameraOf_ok hf hr (Nat.not_lt.1 queueLimit)
              exact h.storeCamera ok (link ▸ linkFits_of_not_taken taken) hw

theorem storeCamera_reserved (c : Chan) (r : CameraConfig) (s : State) :
    (storeCamera c r s).out.reserved = s.out.reserved := by
  unfold storeCamera
  split
  · simp only [unmapChannel, modChan_out, (walk_keeps _).reserved, freeZones_out, (displaceParked_keeps _ _).reserved,
      (flushQueue_keeps _ _).reserved]
  all_goals rfl

theorem cameraWriteBody_reserved (p : List Byte) (s : State) : (cameraWriteBody p s).1.out.reserved = s.out.reserved := by
  unfold cameraWriteBody
  split
  · rfl
  · split
    · rfl
    · split
      · rfl
      · split
        · rfl
        · split
          · rfl
          · split
            · rfl
            · exact storeCamera_reserved _ _ s

/-! ## RESET frame (R193) -/

theorem resetChannel_keeps (x : Channel) : ChanKeeps x (resetChannel x) := by
  have k := applyPending_keeps x
  unfold resetChannel
  split
  · exact ⟨rfl, k.limits, fun _ => ⟨Nat.zero_le _, fun a => (PerAxis_get_all 0 a).trans_le (Nat.zero_le _)⟩, fun _ _ => rfl⟩
  · exact ⟨rfl, k.limits, id, fun _ _ => rfl⟩

theorem VacantAre.resetChannel {V : Chan → Prop} {s : State} (h : VacantAre V s) (c : Chan) :
    VacantAre V (s.modChan c resetChannel) := by
  cases m : mapped (s.chan c) with
  | true =>
    exact h.modChan (h.not_mem (by simpa [mapped] using m)) (by simp [Machine.resetChannel, m, resetMapped])
  | false => exact h.same (by simp [Machine.resetChannel, m])

theorem foldl_resetChannel_keeps (s : State) : Keeps s (allChans.foldl (fun s c => s.modChan c resetChannel) s) :=
  foldl_keeps _ (fun _ _ => Keeps_modChan (resetChannel_keeps _)) _ s

theorem PartOk.resetPart {s : State} (h : PartOk s) (propagate : Bool) : PartOk (resetPart propagate s) := by
  have channels := h.keeps (foldl_resetChannel_keeps s) (h.vacant.foldl (fun _ c k => k.resetChannel c) _)
  unfold Machine.resetPart
  dsimp only
  generalize allChans.foldl (fun s c => s.modChan c resetChannel) s = t at channels
  refine channels.blocks rfl rfl rfl ?_ ⟨Nat.zero_le _, Nat.zero_le _, ?_⟩ channels.quiet channels.monitor
    channels.heldPeriod
  · exact Nat.le_trans (by simp) channels.outbound
  · cases propagate <;> simp [resetLink, Config.headControlCapacity]

theorem resetPart_reserved (propagate : Bool) (s : State) : (resetPart propagate s).out.reserved = s.out.reserved := by
  unfold resetPart
  exact (foldl_resetChannel_keeps s).reserved

theorem PartOk.resetBody {s : State} (h : PartOk s) (p : List Byte) : PartOk (resetBody p s).1 := by
  unfold Machine.resetBody
  split
  · split
    · exact h.resetPart _
    · split
      · exact h.resetPart _
      · exact h
  · exact h

theorem resetBody_reserved (p : List Byte) (s : State) : (resetBody p s).1.out.reserved = s.out.reserved := by
  unfold resetBody
  split
  · split
    · exact resetPart_reserved _ s
    · split
      · exact resetPart_reserved _ s
      · rfl
  · rfl

/-! ## Classification (R173 to R175) -/

/-- A frame with no payload of its own: refused, or its execution. -/
theorem plain_fst (p : List Byte) (body : State → State × Reply) (s : State) :
    (plain p body s).1 = s ∨ (plain p body s).1 = (body s).1 := by
  unfold plain
  split
  · exact .inr rfl
  · exact .inl rfl

/-- An answered frame whose execution keeps, and leaves which channels are VACANT. -/
theorem PartOk.answered_keeps {s : State} (h : PartOk s) {kind : Byte} {body : State → State × Reply}
    (k : Keeps (reserve s) (body (reserve s)).1) (v : VacantAre (Unlinked s) (body (reserve s)).1) :
    PartOk (Machine.answered kind body s) :=
  h.answered (fun h' => h'.keeps k v) k.reserved

theorem PartOk.answered_plain {s : State} (h : PartOk s) {kind : Byte} {p : List Byte} {body : State → State × Reply}
    (k : Keeps (reserve s) (body (reserve s)).1) (v : VacantAre (Unlinked s) (body (reserve s)).1) :
    PartOk (Machine.answered kind (plain p body) s) := by
  rcases plain_fst p body (reserve s) with e | e
  · exact h.answered (fun h' => by rwa [e]) (by rw [e])
  · exact h.answered (fun h' => by rw [e]; exact h'.keeps k v) (by rw [e, k.reserved])

/-- An answer that changes nothing. -/
theorem PartOk.answered_same {s : State} (h : PartOk s) {kind : Byte} (r : State → Reply) :
    PartOk (Machine.answered kind (fun t => (t, r t)) s) := h.answered id rfl

theorem PartOk.partFrame {s : State} (h : PartOk s) (k : PartKind) (f : Frame) : PartOk (partFrame k f s) := by
  cases k with
  | tally => exact h.keeps (tallyFrame_keeps _ s) (h.vacant.tallyFrame _)
  | shotWrite => exact h.answered (fun h' => h'.shotWriteBody _) (by rw [shotWriteBody_out])
  | shotErase => exact h.answered (fun h' => h'.shotEraseBody _) (by rw [shotEraseBody_out])
  | shotRead => exact h.answered_same _
  | verify => exact h.answered_same _
  | limitWrite => exact h.answered (fun h' => h'.limitWriteBody _) (by rw [limitWriteBody_out])
  | limitRead => exact h.answered_same _
  | cameraWrite => exact h.answered (fun h' => h'.cameraWriteBody _) (cameraWriteBody_reserved _ _)
  | cameraRead => exact h.answered_same _
  | zoneRead => exact h.answered_plain (Keeps_refl _) h.vacant
  | zoneRelease => exact h.answered_keeps (zoneReleaseBody_keeps _ _) (VacantAre.zoneReleaseBody (s := reserve s) h.vacant _)
  | partQuery =>
    rcases plain_fst f.payload partQueryBody (reserve s) with e | e
    · exact h.answered (fun h' => by rwa [e]) (by rw [e])
    · exact h.answered (fun h' => by rw [e]; exact h'.setOut h'.outbound) (by rw [e]; rfl)
  | reset => exact h.answered (fun h' => h'.resetBody _) (resetBody_reserved _ _)

theorem PartOk.cameraFrame {s : State} (h : PartOk s) {c : Chan} (hc : ¬Unlinked s c) (k : CameraKind) (f : Frame) :
    PartOk (cameraFrame c k f s) := by
  have v : VacantAre (Unlinked s) (reserve s) := h.vacant
  cases k with
  | call => exact h.answered_keeps (callBody_keeps _ _ _) (v.callBody c _)
  | jog => exact h.keeps (jogFrame_keeps _ _ _) (h.vacant.jogFrame hc _)
  | halt => exact h.answered_plain (haltChannel_keeps walk_keeps _ _) (v.haltChannel VacantAre.walk hc)
  | resume => exact h.answered_plain (resumeBody_keeps _ _) (v.resumeBody hc)
  | flush => exact h.answered_plain (flushBody_keeps _ _) ((v.flushQueue c).displaceParked c)
  | recover => exact h.answered_plain (recoverBody_keeps _ _) (v.recoverBody hc)
  | query => exact h.answered_plain (Keeps_refl _) v

/-- The channel that holds a link address is mapped (R173). -/
theorem mapped_of_channelAt {s : State} {b : Byte} {c : Chan} (h : s.channelAt b = some c) : mapped (s.chan c) = true := by
  have k := List.find?_some h
  simp only [Bool.and_eq_true] at k
  exact k.1

theorem PartOk.controlFrame {s : State} (h : PartOk s) (f : Frame) : PartOk (controlFrame f s) := by
  unfold Machine.controlFrame
  split
  · unfold ownFrame
    split
    · exact h.partFrame _ f
    · split
      · exact h.forwardDown f
      · exact h.answered_same _
  · split
    · next c hc =>
      split
      · exact h.cameraFrame (h.not_unlinked (mapped_of_channelAt hc)) _ f
      · exact h.forwardDown f
    · unfold strayFrame
      split
      · exact (h.keeps (haltAll_keeps s) h.vacant.haltAll).forwardDown f
      · exact h.forwardDown f

theorem PartOk.headChannelFrame {s : State} (h : PartOk s) {c : Chan} (hc : ¬Unlinked s c) (k : HeadKind) (f : Frame) :
    PartOk (headChannelFrame c k f s) := by
  unfold Machine.headChannelFrame
  split
  · split
    · exact (h.keeps (takePosition_keeps _ _ _) (h.vacant.takePosition hc _)).forwardUp f
    · exact h.forwardUp f
  · split
    · exact (h.keeps (takeAlarm_keeps _ _ _) (h.vacant.takeAlarm hc _)).forwardUp f
    · exact h.forwardUp f
  · split
    · exact h.keeps (takeManualRequest_keeps _ _) (h.vacant.takeManualRequest c)
    · exact h
  · split
    · exact h.keeps (takeManualRelease_keeps _ _) (h.vacant.takeManualRelease c)
    · exact h

theorem PartOk.headFrame {s : State} (h : PartOk s) (f : Frame) : PartOk (headFrame f s) := by
  unfold Machine.headFrame
  split
  · exact h.forwardUp f
  · split
    · next hc => exact h.headChannelFrame (h.not_unlinked (mapped_of_channelAt hc)) _ f
    · split
      · exact h.forwardUp f
      · exact h.forwardUp f
      · exact h
      · exact h

/-- Every frame received at a port keeps the part's invariant (R171). -/
theorem PartOk.receive {s : State} (h : PartOk s) (p : Port) (f : Frame) : PartOk (receive p f s) := by
  unfold Machine.receive
  split
  · exact h
  · split
    · cases p
      · exact (h.arrive .control).controlFrame f
      · exact (h.arrive .head).headFrame f
    · exact h.arrive p

/-- Bytes that arrive at a receiver keep the part's invariant (R171). -/
theorem PartOk.takeBytes {s : State} (h : PartOk s) (p : Port) (bytes : List Byte) : PartOk (takeBytes p bytes s) := by
  unfold Machine.takeBytes
  split
  · exact h
  · exact (foldl_gives (G := PartOk) _ (fun t f k => PartOk.receive k p f) _ s h).setRx p _

end Sys2Proof.Machine
end

section
/-! The Reference Monitor, the transmitters and the reset keep the part's invariant, and so does every step. -/

namespace Sys2Proof.Machine

/-! ## The Reference Monitor (R158 to R167) -/

/-- The Reference Monitor changed, with its times not passed and its held period in range. -/
theorem PartOk.setMonitor {s : State} (h : PartOk s) {m : Monitor} (k : MonitorOk { s with monitor := m })
    (period : HeldPeriodOk { s with monitor := m }) : PartOk { s with monitor := m } :=
  h.blocks rfl rfl rfl h.outbound h.link h.quiet k period

theorem PartOk.takeHead {s : State} (h : PartOk s) : PartOk (takeHead s) := by
  unfold Machine.takeHead
  split
  · exact h.blocks rfl rfl rfl h.outbound h.link h.quiet h.monitor h.heldPeriod
  · exact h

theorem PartOk.takeField {s : State} (h : PartOk s) (c : Chan) : PartOk (takeField c s) :=
  h.keeps (takeField_keeps c s) (h.vacant.takeField c)

theorem PartOk.takeDue {s : State} (h : PartOk s) (t : Taker) : PartOk (takeDue s t) := by
  cases t with
  | headPort => exact h.takeHead
  | channel c => exact h.takeField c

theorem PartOk.finishField {s : State} (h : PartOk s) : PartOk (finishField s) :=
  foldl_gives (G := PartOk) _ (fun _ t k => k.takeDue t) _ s h

/-- The rest of a field event changes nothing of the Reference Monitor but that the Head Port has taken it. -/
theorem finishField_monitor (s : State) : ∃ b, (finishField s).monitor = { s.monitor with headDue := b } := by
  refine foldl_gives (G := fun t => ∃ b, t.monitor = { s.monitor with headDue := b }) _ (fun u t k => ?_) _ s ⟨_, rfl⟩
  obtain ⟨b, k⟩ := k
  cases t with
  | headPort =>
    rw [takeDue, takeHead]
    split
    · exact ⟨false, by simp [k]⟩
    · exact ⟨b, k⟩
  | channel c => exact ⟨b, (takeField_keeps c u).monitor.trans k⟩

theorem PartOk.deliver {s : State} (h : PartOk s) : PartOk (deliver s) := by
  have produced : PartOk { s with monitor := { s.monitor with headDue := true, fieldState := s.monitor.state } } :=
    h.setMonitor h.monitor h.heldPeriod
  unfold Machine.deliver
  refine foldl_gives _ (fun t c k => ?_) _ _ produced
  have due : Keeps t (t.modChan c fun ch => { ch with fieldDue := mapped ch }) :=
    Keeps_modChan (ChanKeeps_same rfl rfl rfl rfl rfl rfl)
  exact k.keeps due (k.vacant.same rfl)

theorem PartOk.fieldEvent {s : State} (h : PartOk s) (takers : List Taker) : PartOk (fieldEvent takers s) :=
  foldl_gives (G := PartOk) _ (fun _ t k => k.takeDue t) takers _ h.deliver

theorem PartOk.changeRef {s : State} (h : PartOk s) {r : RefState} (k : r = .locked → s.monitor.window = none) :
    PartOk (changeRef r s) := by
  obtain ⟨flywheel, -, window⟩ := h.monitor
  exact PartOk.notice (h.setMonitor (m := { s.monitor with state := r }) ⟨flywheel, k, window⟩ h.heldPeriod) _

theorem timeOpen_iff {m : Monitor} {t : Nat} :
    timeOpen m t = true ↔ m.now ≤ t ∧ t ≤ m.flywheelAt ∧ ∀ w, m.window = some w → t ≤ windowEnd w := by
  unfold timeOpen
  cases m.window <;> simp [and_assoc]

/-- A field event recorded at a time that has not passed the limit of an active window (R159). -/
theorem PartOk.recordField {s : State} (h : PartOk s) {t reload : Nat} (now : s.monitor.now ≤ t)
    (limit : ∀ w, s.monitor.window = some w → t ≤ windowEnd w) : PartOk (recordField t reload s) := by
  obtain ⟨-, locked, window⟩ := h.monitor
  refine h.setMonitor ⟨Nat.le_add_right _ _, locked, fun w hw => ?_⟩ h.heldPeriod
  obtain ⟨pulses, start, -⟩ := window w hw
  exact ⟨pulses, start.trans now, limit w hw⟩

/-- The profile rounding of a number that is not negative (R35). -/
theorem profileRound_natCast (n y : Nat) :
    profileRound n y = ((if 2 * (n % y) < y then n / y else n / y + 1 : Nat) : Int) := by
  have nonneg : ¬(n : Int) < 0 := by omega
  rw [profileRound, if_neg nonneg]
  rfl

/-- The period that eight intervals measure, when they are as long as a lock asks (R162). -/
theorem measured_period {elapsed : Nat} (least : Config.windowLeast ≤ elapsed) (most : elapsed ≤ Config.windowLimit) :
    15000 ≤ (profileRound (elapsed : Int) Config.windowPulses).toNat
      ∧ (profileRound (elapsed : Int) Config.windowPulses).toNat ≤ 21000 := by
  simp only [Config.windowLeast, Config.windowLimit] at least most
  rw [profileRound_natCast, Int.toNat_natCast, Config.windowPulses]
  split <;> omega

theorem PartOk.windowPulse {s : State} (h : PartOk s) {w : Window} (hw : s.monitor.window = some w)
    (unlocked : s.monitor.state ≠ .locked) : PartOk (windowPulse s.monitor.now w s) := by
  obtain ⟨flywheel, -, window⟩ := h.monitor
  obtain ⟨-, start, limit⟩ := window w hw
  unfold Machine.windowPulse
  split
  · next more =>
    refine h.setMonitor ⟨flywheel, fun e => absurd e unlocked, fun x hx => ?_⟩ h.heldPeriod
    cases hx
    exact ⟨more, start, limit⟩
  · split
    · next long =>
      have period := measured_period long (Nat.sub_le_iff_le_add'.2 limit)
      unfold lock
      refine PartOk.changeRef (h.setMonitor ⟨?_, fun _ => rfl, fun x hx => by cases hx⟩ period) fun _ => rfl
      exact Nat.le_add_right_of_le (Nat.le_add_right _ _)
    · exact h.setMonitor ⟨flywheel, fun _ => rfl, fun x hx => by cases hx⟩ h.heldPeriod

theorem PartOk.startWindow {s : State} (h : PartOk s) (unlocked : s.monitor.state ≠ .locked) :
    PartOk (startWindow s.monitor.now s) := by
  have started : PartOk { s with monitor := { s.monitor with window := some ⟨s.monitor.now, 0⟩ } } := by
    refine h.setMonitor ⟨h.monitor.1, fun e => absurd e unlocked, fun x hx => ?_⟩ h.heldPeriod
    cases hx
    exact ⟨Nat.zero_lt_succ 7, Nat.le_refl _, Nat.le_add_right _ _⟩
  unfold Machine.startWindow
  dsimp only
  split
  · exact started.changeRef nofun
  · exact started

theorem PartOk.acceptPulse {s : State} (h : PartOk s) (locked : s.monitor.state = .locked) (takers : List Taker) :
    PartOk (acceptPulse s.monitor.now takers s) := by
  obtain ⟨b, hm⟩ := finishField_monitor s
  refine PartOk.fieldEvent (h.finishField.recordField (by rw [hm]) fun w hw => ?_) takers
  rw [hm] at hw
  exact nomatch (h.monitor.2.1 locked).symm.trans hw

/-- The time base advanced to an open time. -/
theorem PartOk.advance {s : State} (h : PartOk s) {t : Nat} (k : timeOpen s.monitor t = true) :
    PartOk { s with monitor := { s.monitor with now := t } } := by
  obtain ⟨now, flywheel, limit⟩ := timeOpen_iff.1 k
  obtain ⟨-, locked, window⟩ := h.monitor
  refine h.setMonitor ⟨flywheel, locked, fun w hw => ?_⟩ h.heldPeriod
  obtain ⟨pulses, start, -⟩ := window w hw
  exact ⟨pulses, start.trans now, limit w hw⟩

theorem PartOk.pulseCommand {s : State} (h : PartOk s) (t : Nat) (takers : List Taker) :
    PartOk (pulseCommand t takers s) := by
  unfold Machine.pulseCommand
  split
  · next k =>
    have ok := h.advance (Bool.and_eq_true_iff.1 k).2
    unfold pulse
    dsimp only
    split
    · next locked =>
      split
      · exact ok.acceptPulse locked takers
      · exact ok
    · next unlocked =>
      split
      · exact ok.startWindow unlocked
      · next hw => exact ok.windowPulse hw unlocked
  · exact h

theorem PartOk.windowLimitCommand {s : State} (h : PartOk s) : PartOk (windowLimitCommand s) := by
  unfold Machine.windowLimitCommand
  split
  · next w hw =>
    split
    · next k =>
      obtain ⟨-, flywheel, -⟩ := timeOpen_iff.1 (Bool.and_eq_true_iff.1 k).2
      have ended : PartOk { s with monitor := { s.monitor with now := windowEnd w, window := none } } :=
        h.setMonitor ⟨flywheel, fun _ => rfl, nofun⟩ h.heldPeriod
      unfold endWindow
      dsimp only
      split
      · exact ended.changeRef nofun
      · exact ended
    · exact h
  · exact h

theorem PartOk.expiryCommand {s : State} (h : PartOk s) (takers : List Taker) : PartOk (expiryCommand takers s) := by
  unfold Machine.expiryCommand
  split
  · next k =>
    obtain ⟨now, -, limit⟩ := timeOpen_iff.1 (Bool.and_eq_true_iff.1 k).2
    obtain ⟨b, hm⟩ := finishField_monitor s
    have recorded : PartOk (Machine.recordField s.monitor.flywheelAt s.monitor.heldPeriod (Machine.finishField s)) := by
      refine h.finishField.recordField ?_ fun w hw => limit w ?_
      · rw [hm]; exact now
      · rw [hm] at hw; exact hw
    unfold expireFlywheel
    dsimp only
    split
    · exact (recorded.changeRef (r := .flywheel) fun n => nomatch n).fieldEvent takers
    · exact recorded.fieldEvent takers
  · exact h

theorem PartOk.idle {s : State} (h : PartOk s) : PartOk (idle s) := by
  unfold Machine.idle
  split
  · exact h
  · split
    · exact h.takeHead
    · split
      · exact h.takeField _
      · exact h

/-! ## The transmitters (R179, R180) -/

theorem chooseHead_reached (l : Link) : (chooseHead l).reached = l.reached := by
  unfold chooseHead
  split
  · rfl
  · split <;> rfl

theorem chooseHead_lists (l : Link) : (chooseHead l).downstream.length ≤ l.downstream.length
    ∧ (chooseHead l).upstream = l.upstream ∧ (chooseHead l).headControl.length ≤ l.headControl.length := by
  unfold chooseHead
  split
  · exact ⟨Nat.le_refl _, rfl, Nat.le_refl _⟩
  · split
    · next hc => exact ⟨Nat.le_refl _, rfl, by simp [hc]⟩
    · next hc hd => exact ⟨by simp [hd], rfl, Nat.le_refl _⟩
    · exact ⟨Nat.le_refl _, rfl, Nat.le_refl _⟩

/-- Once a frame has reached the part nothing is asked of its lines (R192). -/
theorem quiet_of_reached {s : State} (h : s.link.reached = true) : QuietOk s := fun n => nomatch h.symm.trans n

theorem reached_of_maySend {s : State} (h : maySend s = true) : s.link.reached = true := (Bool.and_eq_true_iff.1 h).2

theorem PartOk.headBoundary {s : State} (h : PartOk s) : PartOk (headBoundary s) := by
  unfold Machine.headBoundary
  split
  · next may =>
    obtain ⟨down, up, control⟩ := chooseHead_lists s.link
    exact h.setLink ⟨down.trans h.link.1, up ▸ h.link.2.1, control.trans h.link.2.2⟩
      (quiet_of_reached ((chooseHead_reached s.link).trans (reached_of_maySend may)))
  · exact h

/-- A turn of the Control Port's transmitter that takes at most one entry of the Outbound Queue and at most one frame of the
upstream queue. -/
theorem PartOk.send {s : State} (h : PartOk s) (reached : s.link.reached = true) {up : List Frame} {line : Option Frame}
    {second : Bool} {es : List OutEntry} (hu : up.length ≤ s.link.upstream.length)
    (he : es.length ≤ s.out.entries.length) :
    PartOk { s with
      link := { s.link with upstream := up, controlLine := line, controlSecond := second }
      out := { s.out with entries := es } } :=
  h.blocks rfl rfl rfl (Nat.le_trans (Nat.add_le_add_right he _) h.outbound)
    ⟨h.link.1, hu.trans h.link.2.1, h.link.2.2⟩ (quiet_of_reached reached) h.monitor h.heldPeriod

theorem PartOk.controlBoundary {s : State} (h : PartOk s) : PartOk (controlBoundary s) := by
  unfold Machine.controlBoundary
  split
  · next may =>
    have reached := reached_of_maySend may
    split
    · unfold sendSecond
      split
      · exact h.send reached (Nat.le_refl _) (Nat.le_refl _)
      · next e => exact h.send reached (Nat.le_refl _) (by simp [e])
    · split
      · next e => exact h.send reached (by simp [e]) (Nat.le_refl _)
      · unfold sendEntry
        split
        · exact h.send reached (Nat.le_refl _) (Nat.le_refl _)
        · next e =>
          split
          · exact h.send reached (Nat.le_refl _) (by simp [e])
          · exact h.send reached (Nat.le_refl _) (Nat.le_refl _)
  · exact h

/-! ## Reset (R192) -/

theorem addressOfStraps_range (straps : BitVec 5) :
    1 ≤ (addressOfStraps straps).toNat ∧ (addressOfStraps straps).toNat ≤ 30 := by
  revert straps
  decide

theorem powerOn_chan (straps : BitVec 5) (c : Chan) : (State.powerOn straps).chan c = .powerOn := by
  simp [State.chan, State.powerOn, Vector.get]

theorem AllLimits_powerOn {P : Limits → Prop} (h : P .reset) : AllLimits P .powerOn := fun a => by
  simpa [Channel.powerOn] using h

theorem Channel_powerOn_ok : ChannelOk .powerOn where
  liveRates := AllLimits_powerOn (by decide)
  ranges := AllLimits_powerOn (by decide)
  pendingLimits := fun _ => rfl
  counts := ⟨by decide, fun a => by simp [Channel.powerOn]⟩
  config := by decide
  mapped := by decide

/-- The condition after the release of the reset has the part's invariant (R192). -/
theorem PartOk_powerOn (straps : BitVec 5) : PartOk (State.powerOn straps) := by
  have ok (c : Chan) : ChannelOk ((State.powerOn straps).chan c) := by
    rw [powerOn_chan]
    exact Channel_powerOn_ok
  exact {
    directory := ⟨Nat.zero_le _, .nil⟩
    limits := fun c => (ok c).liveRates
    pendingLimits := fun c => (ok c).pendingLimits
    counts := fun c => (ok c).counts
    outbound := Nat.zero_le _
    link := ⟨Nat.zero_le _, Nat.zero_le _, Nat.zero_le _⟩
    quiet := fun _ => ⟨rfl, rfl⟩
    monitor := ⟨Nat.zero_le _, fun _ => rfl, nofun⟩
    heldPeriod := (by decide : 15000 ≤ Config.resetHeldPeriod ∧ Config.resetHeldPeriod ≤ 21000)
    records := {
      address := addressOfStraps_range straps
      shots := List.forall_mem_nil _
      limits := fun c a => ((ok c).ranges a).1
      pendingLimits := fun c a => ((ok c).ranges a).2
      config := fun c => (ok c).config
      mapped := fun c => (ok c).mapped
      links := fun c n => absurd (by rw [powerOn_chan]; rfl) n } }

theorem PartOk.setPending {s : State} (h : PartOk s) (q : List Instr) : PartOk { s with pending := q } :=
  h.blocks rfl rfl rfl h.outbound h.link h.quiet h.monitor h.heldPeriod

theorem PartOk.assertReset {s : State} (h : PartOk s) : PartOk (assertReset s) :=
  h.blocks rfl rfl rfl h.outbound h.link (fun _ => ⟨rfl, rfl⟩) h.monitor h.heldPeriod

/-! ## Every command and every step -/

theorem PartOk.fieldStep {s : State} (h : PartOk s) (comesTo : Channel → Bool) (c : Chan) :
    PartOk (fieldStep comesTo c s) := by
  unfold Machine.fieldStep
  split
  · exact h.takeField c
  · exact h

theorem PartOk.grantStep {s : State} (h : PartOk s) (k : WaiterKind) (c : Chan) : PartOk (grantStep k c s) :=
  h.keeps (grantStep_keeps k c s) (h.vacant.grantStep k c)

theorem PartOk.parkedCallAdmission {s : State} (h : PartOk s) : PartOk (if s.resetHeld then s else admitOldest s) := by
  split
  · exact h
  · exact h.keeps (admitOldest_keeps s) h.vacant.admitOldest

/-- A command whose outcome is a state that has the invariant. -/
theorem PartOk.of_next {s t : State} (h : PartOk s) (e : (.next s : Out) = .next t) : PartOk t := by
  cases e
  exact h

/-- Every command keeps the part's invariant; those not named below are the frame commands of the Control Port. -/
theorem PartOk.exec {s t : State} (h : PartOk s) (i : Instr) (e : exec i s = .next t) : PartOk t := by
  cases i with
  | powerOnReset straps => exact PartOk.of_next ((PartOk_powerOn straps).setPending s.pending) e
  | resetPinAssert => exact PartOk.of_next h.assertReset e
  | candidateDiscard p bytes => exact PartOk.of_next (h.takeBytes p bytes) e
  | badKindFrame f | forwardDownstream f => exact PartOk.of_next (h.receive .control f) e
  | forwardUpstream f => exact PartOk.of_next (h.receive .head f) e
  | position m | alarm m | manualRequest m | manualRelease m => exact PartOk.of_next (h.receive .head _) e
  | referencePulse time takers => exact PartOk.of_next (h.pulseCommand time takers) e
  | windowElapsedLimit => exact PartOk.of_next h.windowLimitCommand e
  | flywheelTimerExpiry takers => exact PartOk.of_next (h.expiryCommand takers) e
  | profileComplete c | stopRampComplete c | jogDeadman c | jogEnd c | zoneTimeout c | settleTimeout c | reportLoss c
  | manualWaitTimeout c => exact PartOk.of_next (h.fieldStep _ c) e
  | zoneGrant c | manualGrant c => exact PartOk.of_next (h.grantStep _ c) e
  | parkedCallAdmission => exact PartOk.of_next h.parkedCallAdmission e
  | headPortFrameBoundary => exact PartOk.of_next h.headBoundary e
  | controlPortFrameBoundary => exact PartOk.of_next h.controlBoundary e
  | _ m => exact PartOk.of_next (h.receive .control _) e

end Sys2Proof.Machine

namespace Sys2Proof.Proofs
open Sys2Proof.Machine

/-- Settles O58: the step runs the front command on the rest of the queue, or idles, and each keeps the invariant. -/
theorem stepKeepsPartInvariant : Obligations.StepKeepsPartInvariant := by
  intro s t h e
  unfold step at e
  split at e
  · exact h.idle.of_next e
  · exact (h.setPending _).exec _ e

end Sys2Proof.Proofs
end

section
/-! The frames of the Shot Table (R6 to R18). -/

namespace Sys2Proof.Machine

/-! ## Answers at the part's own address -/

/-- An answered frame whose execution changes nothing adds its answer alone (R186). -/
theorem answered_same {s : State} {kind : Byte} {body : State → State × Reply} {r : Reply} (free : s.outFree ≠ 0)
    (h : body (reserve (afterControl s)) = (reserve (afterControl s), r)) :
    answered kind body (afterControl s) = withAnswer s kind r := by
  rw [answered_free (by simpa using free), h]
  rfl

/-- An answered frame whose execution changes the directory adds its answer to the part with that directory (R186). -/
theorem answered_shots {s : State} {kind : Byte} {body : State → State × Reply} {rs : List Shot} {r : Reply}
    (free : s.outFree ≠ 0)
    (h : body (reserve (afterControl s)) = ({ reserve (afterControl s) with shots := rs }, r)) :
    answered kind body (afterControl s) = withAnswer { s with shots := rs } kind r := by
  rw [answered_free (by simpa using free), h]
  rfl

theorem be16_u16 (hi lo : Byte) : be16 (u16 hi lo) = [hi, lo] := by
  have := hi.isLt
  have := lo.isLt
  simp only [be16, u16, List.cons.injEq, and_true, ← BitVec.toNat_inj, BitVec.toNat_ofNat]
  omega

theorem shotNumberOk_iff (n : Nat) : shotNumberOk n = true ↔ n ≠ 0 ∧ n ≤ 999 := by
  simp [shotNumberOk, Nat.one_le_iff_ne_zero]

theorem shotNumberOk_false_iff (n : Nat) : shotNumberOk n = false ↔ n = 0 ∨ 999 < n := by
  rw [Bool.eq_false_iff, Ne, shotNumberOk_iff]
  omega

/-! ## SHOT WRITE (R6 to R8) -/

/-- A SHOT WRITE carries a record exactly when no field is out of range (R6). -/
theorem exists_shotOf_iff (f : ShotFields) : (∃ r, shotOf f = some r) ↔ ShotFieldsOk f := by
  constructor
  · rintro ⟨r, hr⟩
    exact (shotOf_eq_some_iff.1 hr).1
  · intro h
    have ⟨chan, _, _, _, _, _, _, _, zones, _, _⟩ := h
    obtain ⟨route, rest⟩ := List.forall_mem_append.1 zones
    have hc : chanOf f.channel ≠ none := fun n => absurd (chanOf_eq_none_iff.1 n) (by omega)
    have hz {bs : List Byte} (k : ∀ b ∈ bs, b.toNat < 24) : zonesOf bs ≠ none := fun n => by
      obtain ⟨b, hb, hl⟩ := zonesOf_eq_none_iff.1 n
      exact absurd (k b hb) (by omega)
    obtain ⟨c, hc⟩ := Option.ne_none_iff_exists'.1 hc
    obtain ⟨zs, hroute⟩ := Option.ne_none_iff_exists'.1 (hz route)
    obtain ⟨ys, hrest⟩ := Option.ne_none_iff_exists'.1 (hz rest)
    exact ⟨⟨c, f.number, f.flags.getLsbD 0, f.targets, f.ease, f.duration, zs, ys⟩,
      shotOf_eq_some_iff.2 ⟨h, hc, hroute, hrest, rfl, rfl, rfl, rfl, rfl⟩⟩

theorem shotOf_eq_none {f : ShotFields} (h : ¬ShotFieldsOk f) : shotOf f = none :=
  Option.eq_none_iff_forall_ne_some.2 fun r k => h ((exists_shotOf_iff f).1 ⟨r, k⟩)

theorem exec_shotWrite {s : State} {m : Msg} (h : AtPart s m (partCode .shotWrite)) :
    exec (.shotWrite m) s = .next (answered 0x21 (shotWriteBody m.payload) (afterControl s)) :=
  congrArg Host.Outcome.next (receive_part h.1 h.2.1)

theorem shotWriteBody_accepted {p : List Byte} {s : State} {f : ShotFields} {r : Shot} (hf : readShot p = some f)
    (hr : shotOf f = some r) (room : (s.findShot r.channel r.number).isSome ∨ s.shots.length < 512) :
    shotWriteBody p s = ({ s with shots := putShot r s.shots }, reply .ok (chanByte r.channel :: be16 r.number
      ++ flagByte (s.findShot r.channel r.number).isSome ++ be16 (putShot r s.shots).length)) := by
  simp only [shotWriteBody, hf, hr]
  rw [if_neg]
  · rfl
  · simp only [Bool.and_eq_true, Bool.not_eq_true', decide_eq_true_eq, not_and]
    intro absent
    rcases room with found | room
    · exact absurd (found.symm.trans absent) nofun
    · exact Nat.not_le.2 room

theorem shotWriteBody_badLength {p : List Byte} (s : State) (h : readShot p = none) :
    shotWriteBody p s = (s, refuse .badLength) := by simp only [shotWriteBody, h]

theorem shotWriteBody_badParam {p : List Byte} (s : State) {f : ShotFields} (hf : readShot p = some f)
    (h : shotOf f = none) : shotWriteBody p s = (s, refuse .badParam) := by simp only [shotWriteBody, hf, h]

theorem shotWriteBody_tableFull {p : List Byte} {s : State} {f : ShotFields} {r : Shot} (hf : readShot p = some f)
    (hr : shotOf f = some r) (absent : s.findShot r.channel r.number = none) (full : 512 ≤ s.shots.length) :
    shotWriteBody p s = (s, refuse .tableFull) := by
  simp [shotWriteBody, hf, hr, absent, Config.shotCapacity, full]

/-! ## SHOT ERASE (R9) -/

theorem exec_shotErase {s : State} {m : Msg} (h : AtPart s m (partCode .shotErase)) :
    exec (.shotErase m) s = .next (answered 0x22 (shotEraseBody m.payload) (afterControl s)) :=
  congrArg Host.Outcome.next (receive_part h.1 h.2.1)

theorem shotEraseBody_badParam {b n1 n0 : Byte} (s : State) (h : 16 ≤ b.toNat ∨ u16 n1 n0 = 0 ∨ 999 < u16 n1 n0) :
    shotEraseBody [b, n1, n0] s = (s, refuse .badParam) := by
  cases hc : chanOf b with
  | none => simp only [shotEraseBody, hc]
  | some c =>
    have bad := h.resolve_left (Nat.not_le.2 (chanOf_lt hc))
    simp [shotEraseBody, hc, (shotNumberOk_false_iff _).2 bad]

theorem shotEraseBody_inRange {b n1 n0 : Byte} {c : Chan} (s : State) (hc : chanOf b = some c) (h0 : u16 n1 n0 ≠ 0)
    (h1 : u16 n1 n0 ≤ 999) : shotEraseBody [b, n1, n0] s
      = if (s.findShot c (u16 n1 n0)).isNone then (s, refuse .notFound)
        else ({ s with shots := eraseShot c (u16 n1 n0) s.shots },
          reply .ok (b :: n1 :: n0 :: be16 (eraseShot c (u16 n1 n0) s.shots).length)) := by
  simp only [shotEraseBody, hc, (shotNumberOk_iff _).2 ⟨h0, h1⟩, chanByte_of_chanOf hc, be16_u16]
  rfl

/-! ## SHOT READ (R10, R11) -/

theorem exec_shotRead {s : State} {m : Msg} {r : Reply} (h : AtPart s m (partCode .shotRead))
    (hr : shotReadReply m.payload s = r) :
    ∀ i ∈ [Instr.shotRead m, .shotReadNext m], exec i s = .next (withAnswer s 0x23 r) := by
  have read : receive .control (m.frame (partCode .shotRead)) s = withAnswer s 0x23 r := by
    rw [receive_part h.1 h.2.1]
    exact answered_same (body := fun t => (t, shotReadReply m.payload t)) h.2.2
      (congrArg (Prod.mk (reserve (afterControl s))) hr)
  simp only [List.forall_mem_cons]
  exact ⟨congrArg Host.Outcome.next read, congrArg Host.Outcome.next read, nofun⟩

theorem shotReadReply_badParam {b n1 n0 flag : Byte} (s : State)
    (h : 16 ≤ b.toNat ∨ u16 n1 n0 = 0 ∨ 999 < u16 n1 n0 ∨ 1 < flag.toNat) :
    shotReadReply [b, n1, n0, flag] s = refuse .badParam := by
  cases hc : chanOf b with
  | none => simp only [shotReadReply, hc]
  | some c =>
    cases hn : shotNumberOk (u16 n1 n0) with
    | false => simp [shotReadReply, hc, hn]
    | true =>
      have range := (shotNumberOk_iff _).1 hn
      have := chanOf_lt hc
      have high : 1 < flag.toNat := by omega
      have f0 : flag ≠ 0 := by rintro rfl; exact absurd high (by decide)
      have f1 : flag ≠ 1 := by rintro rfl; exact absurd high (by decide)
      rw [shotReadReply, hc]
      simp only [hn, if_neg f0, if_neg f1]
      rfl

theorem shotReadReply_exact {b n1 n0 : Byte} {c : Chan} (s : State) (hc : chanOf b = some c) (h0 : u16 n1 n0 ≠ 0)
    (h1 : u16 n1 n0 ≤ 999) : shotReadReply [b, n1, n0, 0] s = shotAnswer (s.findShot c (u16 n1 n0)) := by
  simp [shotReadReply, hc, (shotNumberOk_iff _).2 ⟨h0, h1⟩]

theorem shotReadReply_next {b n1 n0 : Byte} {c : Chan} (s : State) (hc : chanOf b = some c) (h0 : u16 n1 n0 ≠ 0)
    (h1 : u16 n1 n0 ≤ 999) : shotReadReply [b, n1, n0, 1] s = shotAnswer (s.shotsFrom c (u16 n1 n0)).head? := by
  simp [shotReadReply, hc, (shotNumberOk_iff _).2 ⟨h0, h1⟩]

theorem mem_shotsFrom {s : State} {c : Chan} {n : Nat} {r : Shot} :
    r ∈ s.shotsFrom c n ↔ r ∈ s.shots ∧ r.channel = c ∧ n ≤ r.number := by simp [State.shotsFrom]

/-- No record of a channel at or above a shot number is left when all its records are below. -/
theorem shotsFrom_eq_nil {s : State} {c : Chan} {n : Nat} (h : ∀ r ∈ s.shots, r.channel = c → r.number < n) :
    s.shotsFrom c n = [] := by
  rw [List.eq_nil_iff_forall_not_mem]
  intro r hr
  obtain ⟨mem, chan, above⟩ := mem_shotsFrom.1 hr
  exact absurd (h r mem chan) (Nat.not_lt.2 above)

/-- In a directory in order, the record of a channel with the smallest shot number at or above one is the first from there
(R1, R11). -/
theorem head_shotsFrom {s : State} (h : DirectoryOk s) {r : Shot} {n : Nat} (mem : r ∈ s.shots) (above : n ≤ r.number)
    (least : ∀ x ∈ s.shots, x.channel = r.channel → n ≤ x.number → r.number ≤ x.number) :
    (s.shotsFrom r.channel n).head? = some r := by
  have hr : r ∈ s.shotsFrom r.channel n := mem_shotsFrom.2 ⟨mem, rfl, above⟩
  have order : (s.shotsFrom r.channel n).Pairwise fun x y => shotBefore x y = true := h.2.filter _
  have least : ∀ x ∈ s.shotsFrom r.channel n, x.channel = r.channel ∧ r.number ≤ x.number := fun x hx => by
    obtain ⟨hm, hc, hn⟩ := mem_shotsFrom.1 hx
    exact ⟨hc, least x hm hc hn⟩
  cases e : s.shotsFrom r.channel n with
  | nil => rw [e] at hr; cases hr
  | cons x xs =>
    rw [e] at hr order least
    rcases List.mem_cons.1 hr with rfl | later
    · rfl
    · obtain ⟨chan, number⟩ := least x List.mem_cons_self
      have before := (shotBefore_iff x r).1 ((List.pairwise_cons.1 order).1 r later)
      rw [chan] at before
      rcases before with other | ⟨-, less⟩
      · exact absurd other (lt_irrefl _)
      · omega

/-! ## VERIFY (R15 to R18) -/

theorem exec_verify {s : State} {m : Msg} {r : Reply} (h : AtPart s m (partCode .verify))
    (hr : verifyAnswer m.payload s = r) : exec (.verify m) s = .next (withAnswer s 0x24 r) := by
  have verified : receive .control (m.frame (partCode .verify)) s = withAnswer s 0x24 r := by
    rw [receive_part h.1 h.2.1]
    exact answered_same (body := fun t => (t, verifyAnswer m.payload t)) h.2.2
      (congrArg (Prod.mk (reserve (afterControl s))) hr)
  exact congrArg Host.Outcome.next verified

theorem verifyAnswer_badParam {b s1 s0 n1 n0 : Byte} (s : State)
    (h : 16 ≤ b.toNat ∨ u16 s1 s0 = 0 ∨ 999 < u16 s1 s0 ∨ 999 < u16 n1 n0) :
    verifyAnswer [b, s1, s0, n1, n0] s = refuse .badParam := by
  cases hc : chanOf b with
  | none => simp only [verifyAnswer, hc]
  | some c =>
    have := chanOf_lt hc
    simp only [verifyAnswer, hc]
    refine if_neg ?_
    rw [Bool.and_eq_true, shotNumberOk_iff, decide_eq_true_eq]
    omega

theorem verifyAnswer_inRange {b s1 s0 n1 n0 : Byte} {c : Chan} (s : State) (hc : chanOf b = some c) (h0 : u16 s1 s0 ≠ 0)
    (h1 : u16 s1 s0 ≤ 999) (hn : u16 n1 n0 ≤ 999) :
    verifyAnswer [b, s1, s0, n1, n0] s = verifyReply s c (u16 s1 s0) (u16 n1 n0) := by
  simp [verifyAnswer, hc, (shotNumberOk_iff _).2 ⟨h0, h1⟩, hn]

/-- The first failing record is the one that records which pass stand before, and what is left is counted with it (R17). -/
theorem firstFailure_append {ch : Channel} {passed left : List Shot} {r : Shot}
    (pass : ∀ x ∈ passed, checkShot ch x = .none) (fail : checkShot ch r ≠ .none) :
    firstFailure ch (passed ++ r :: left) = some (r, checkShot ch r, left.length + 1) := by
  induction passed with
  | nil => rw [List.nil_append, firstFailure, if_neg fail]
  | cons x xs ih =>
    obtain ⟨hx, hxs⟩ := List.forall_mem_cons.1 pass
    rw [List.cons_append, firstFailure, if_pos hx, ih hxs]

theorem firstFailure_none {ch : Channel} {set : List Shot} (pass : ∀ x ∈ set, checkShot ch x = .none) :
    firstFailure ch set = none := by
  induction set with
  | nil => rfl
  | cons x xs ih =>
    obtain ⟨hx, hxs⟩ := List.forall_mem_cons.1 pass
    rw [firstFailure, if_pos hx, ih hxs]

end Sys2Proof.Machine

namespace Sys2Proof.Proofs
open Sys2Proof.Machine

/-- Settles O7: a SHOT WRITE is answered as its body answers, which puts the record or refuses it. -/
theorem shotWriteStoresOrRefusesRecord : Obligations.ShotWriteStoresOrRefusesRecord := by
  refine ⟨fun s m f r h order hf hr room => ⟨putShot r s.shots, ?_, find_putShot r s.shots, length_putShot order.2 r⟩,
    fun s m h => ⟨fun hf => ?_, fun f hf => ⟨fun bad => ?_, fun ok => ?_⟩⟩⟩
  · rw [exec_shotWrite h]
    exact congrArg _ (answered_shots h.2.2 (shotWriteBody_accepted (s := reserve (afterControl s)) hf hr room))
  · rw [exec_shotWrite h]
    exact congrArg _ (answered_same h.2.2 (shotWriteBody_badLength _ hf))
  · have none : shotOf f = none := shotOf_eq_none fun ok => by
      obtain ⟨chan, n0, n1, flags, ease, duration, routeLen, restLen, zones, routeNodup, restNodup⟩ := ok
      rcases bad with k | k | k | k | k | ⟨d, hd, k⟩ | k | k | ⟨b, hb, k⟩ | k | k
      · omega
      · exact n0 k
      · omega
      · omega
      · exact ease k
      · have := duration d hd
        omega
      · omega
      · omega
      · have := zones b hb
        omega
      · exact k routeNodup
      · exact k restNodup
    rw [exec_shotWrite h]
    exact congrArg _ (answered_same h.2.2 (shotWriteBody_badParam _ hf none))
  · obtain ⟨r, hr⟩ := (exists_shotOf_iff f).2 ok
    refine ⟨r, hr, fun absent full => ?_⟩
    rw [exec_shotWrite h]
    exact congrArg _ (answered_same h.2.2 (shotWriteBody_tableFull (s := reserve (afterControl s)) hf hr absent full))

/-- Settles O8: the body of a SHOT ERASE in range, and what an erasure leaves in the directory. -/
theorem shotEraseRemovesOneRecord : Obligations.ShotEraseRemovesOneRecord := by
  intro s m b n1 n0 h order payload
  rw [exec_shotErase h, payload]
  refine ⟨fun bad => congrArg _ (answered_same h.2.2 (shotEraseBody_badParam _ bad)), fun c hc h0 h1 => ⟨fun absent => ?_,
    fun found => ⟨eraseShot c (u16 n1 n0) s.shots, ?_, fun d n => find_eraseShot c d (u16 n1 n0) n s.shots, ?_⟩⟩⟩
  · refine congrArg _ (answered_same h.2.2 ((shotEraseBody_inRange _ hc h0 h1).trans (if_pos ?_)))
    exact Option.isNone_iff_eq_none.2 absent
  · refine congrArg _ (answered_shots h.2.2 ((shotEraseBody_inRange _ hc h0 h1).trans (if_neg ?_)))
    intro absent
    rw [show s.findShot c (u16 n1 n0) = none from Option.isNone_iff_eq_none.1 absent] at found
    cases found
  · have length := length_eraseShot order.2 c (u16 n1 n0)
    rwa [if_pos (show (s.shots.find? (hasKey c (u16 n1 n0))).isSome = true from found)] at length

/-- Settles O9: the reply of a SHOT READ out of range, by the exact key, and by the first record from a shot number on. -/
theorem shotReadAnswersExactKeyOrSmallestAbove : Obligations.ShotReadAnswersExactKeyOrSmallestAbove := by
  refine ⟨fun s m b n1 n0 flag h payload bad => exec_shotRead h (payload ▸ shotReadReply_badParam s bad),
    fun s m b n1 n0 h payload => ?_, fun s m b n1 n0 c h order payload hc h0 h1 => ?_⟩
  · have read {r : Reply} (k : shotReadReply [b, n1, n0, 0] s = r) : exec (.shotRead m) s = .next (withAnswer s 0x23 r) :=
      exec_shotRead h (payload ▸ k) _ (by simp)
    refine ⟨fun bad => read (shotReadReply_badParam s ?_), fun c hc h0 h1 => ⟨fun absent => read ?_, fun r found => read ?_⟩⟩
    · exact bad.imp_right (Or.imp_right .inl)
    · rw [shotReadReply_exact s hc h0 h1, absent]
      rfl
    · rw [shotReadReply_exact s hc h0 h1, found]
      rfl
  · have read {r : Reply} (k : shotReadReply [b, n1, n0, 1] s = r) :
        exec (.shotReadNext m) s = .next (withAnswer s 0x23 r) := exec_shotRead h (payload ▸ k) _ (by simp)
    refine ⟨fun below => read ?_, fun r mem chan above least => read ?_⟩
    · rw [shotReadReply_next s hc h0 h1, shotsFrom_eq_nil below]
      rfl
    · subst chan
      rw [shotReadReply_next s hc h0 h1, head_shotsFrom order mem above least]
      rfl

end Sys2Proof.Proofs
end

section
/-! VERIFY: the check code of a record, and the answer by the first that fails (R15 to R18). -/

namespace Sys2Proof.Machine

/-! ## The four checks of R16 -/

/-- AXIS: some axis with a target is outside the channel's mask. -/
def OffMask (ch : Channel) (r : Shot) : Prop := ∃ a, r.targets.get a ≠ none ∧ ch.config.mask.get a = false

/-- LIMIT: some target is outside the travel of its axis. -/
def OffLimits (ch : Channel) (r : Shot) : Prop :=
  ∃ a t, r.targets.get a = some t ∧ (t < (ch.limits.get a).minPos ∨ (ch.limits.get a).maxPos < t)

/-- EASE: the duration is less than twice the ease. -/
def ShortEase (r : Shot) : Prop := ∃ e d, r.ease = some e ∧ r.duration = some d ∧ d < 2 * e

/-- ZONES: a zone is both on the route and a rest zone. -/
def SharedZone (r : Shot) : Prop := ∃ z ∈ r.route, z ∈ r.rest

theorem outside_iff (l : Limits) (p : Int) : outside l p = true ↔ p < l.minPos ∨ l.maxPos < p := by simp [outside]

open Classical in
/-- The check code is that of the first check that fails, in the order of R16. -/
theorem checkShot_eq (ch : Channel) (r : Shot) : checkShot ch r =
    if OffMask ch r then .axis else if OffLimits ch r then .limit else if ShortEase r then .ease
    else if SharedZone r then .zones else .none := by
  unfold checkShot
  refine if_congr ?mask rfl (if_congr ?limits rfl (if_congr ?ease rfl (if_congr ?zones rfl rfl)))
  case mask => simp [OffMask, PerAxis.present, mem_allAxes, Option.isSome_iff_ne_none]
  case limits =>
    rw [List.any_eq_true]
    constructor
    · rintro ⟨a, -, h⟩
      split at h
      · next t ht => exact ⟨a, t, ht, (outside_iff _ t).1 h⟩
      · cases h
    · rintro ⟨a, t, ht, h⟩
      exact ⟨a, mem_allAxes a, by rw [ht]; exact (outside_iff _ t).2 h⟩
  case ease =>
    unfold ShortEase
    cases r.ease <;> cases r.duration <;> simp
  case zones => simp [SharedZone]

/-! ## The answer (R17, R18) -/

theorem verifyReply_failed {s : State} {c : Chan} {first n : Nat} {passed left : List Shot} {r : Shot}
    (set : walkSet s c first n = passed ++ r :: left) (pass : ∀ x ∈ passed, checkShot (s.chan c) x = .none)
    (fail : checkShot (s.chan c) r ≠ .none) :
    verifyReply s c first n = reply .failed (chanByte c :: be16 r.number ++ [checkByte (checkShot (s.chan c) r)]
      ++ be16 ((walkSet s c first n).length - passed.length)) := by
  have length : (walkSet s c first n).length - passed.length = left.length + 1 := by simp [set]
  rw [length]
  simp only [verifyReply, set, firstFailure_append pass fail]
  rfl

/-- The walk set is all there is from the shot number on, when that is what the count asks or all that there is (R15). -/
theorem walkSet_length (s : State) (c : Chan) (first n : Nat) :
    (walkSet s c first n).length = if n = 0 then (s.shotsFrom c first).length else min n (s.shotsFrom c first).length := by
  unfold walkSet
  split
  · rfl
  · exact List.length_take

theorem verifyReply_passed {s : State} {c : Chan} {first n : Nat}
    (pass : ∀ x ∈ walkSet s c first n, checkShot (s.chan c) x = .none) :
    verifyReply s c first n = if n = 0 ∨ n ≤ (s.shotsFrom c first).length
      then reply .ok (chanByte c :: be16 0 ++ [0] ++ be16 0)
      else reply .okShort (chanByte c :: be16 0 ++ [0] ++ be16 (s.shotsFrom c first).length) := by
  have length := walkSet_length s c first n
  simp only [verifyReply, firstFailure_none pass]
  by_cases enough : n = 0 ∨ n ≤ (s.shotsFrom c first).length
  · rw [if_pos enough, if_pos]
    · rfl
    · split at length <;> omega
  · have short : (walkSet s c first n).length = (s.shotsFrom c first).length := by
      split at length <;> omega
    rw [if_neg enough, if_neg (by omega), short]
    rfl

end Sys2Proof.Machine

namespace Sys2Proof.Proofs
open Sys2Proof.Machine

/-- Settles O10: the check code by its four checks, and the answer of a VERIFY by the first record that fails one. -/
theorem verifyAnswersFirstFailure : Obligations.VerifyAnswersFirstFailure := by
  refine ⟨fun ch r => ?_, fun s m b s1 s0 n1 n0 h payload bad => exec_verify h (payload ▸ verifyAnswer_badParam s bad),
    fun s m b s1 s0 n1 n0 c h payload hc h0 h1 hn => ?_⟩
  · classical
    change (_ ↔ OffMask ch r) ∧ (_ ↔ ¬OffMask ch r ∧ OffLimits ch r) ∧ (_ ↔ ¬OffMask ch r ∧ ¬OffLimits ch r ∧ ShortEase r)
      ∧ (_ ↔ ¬OffMask ch r ∧ ¬OffLimits ch r ∧ ¬ShortEase r ∧ SharedZone r)
      ∧ (_ ↔ ¬OffMask ch r ∧ ¬OffLimits ch r ∧ ¬ShortEase r ∧ ¬SharedZone r)
    rw [checkShot_eq]
    split_ifs <;> simp [*]
  · have run {r : Reply} (k : verifyReply s c (u16 s1 s0) (u16 n1 n0) = r) :
        exec (.verify m) s = .next (withAnswer s 0x24 r) :=
      exec_verify h (by rw [payload, verifyAnswer_inRange s hc h0 h1 hn, k])
    refine ⟨fun passed r left set pass fail => run (verifyReply_failed set pass fail), fun pass => ⟨fun enough => ?_,
      fun short => ?_⟩⟩
    · exact run ((verifyReply_passed pass).trans (if_pos enough))
    · refine run ((verifyReply_passed pass).trans (if_neg ?_))
      change (s.shotsFrom c (u16 s1 s0)).length < _ at short
      omega

end Sys2Proof.Proofs
end

section
/-! Stored records as bytes: what is written is read back (R10, R29, R61, R181, R183). -/

namespace Sys2Proof.Machine

/-! ## Multi-byte fields (R181) -/

theorem toNat_ofNat_byte {n : Nat} (h : n ≤ 255) : (BitVec.ofNat 8 n).toNat = n := by
  rw [BitVec.toNat_ofNat]
  omega

theorem u16_be16 {n : Nat} (h : n ≤ 65535) : u16 (BitVec.ofNat 8 (n / 256)) (BitVec.ofNat 8 n) = n := by
  simp only [u16, BitVec.toNat_ofNat]
  omega

theorem s24_be24 {x : Int} (h : Config.positionMin ≤ x ∧ x ≤ Config.positionMax) :
    s24 (BitVec.ofNat 8 ((x % 16777216).toNat / 65536)) (BitVec.ofNat 8 ((x % 16777216).toNat / 256))
      (BitVec.ofNat 8 (x % 16777216).toNat) = x := by
  simp only [Config.positionMin, Config.positionMax] at h
  simp only [s24, BitVec.toNat_ofNat]
  split <;> omega

theorem zonesOf_zoneBytes (zs : List Zone) : zonesOf (zoneBytes zs) = some zs := by
  rw [zonesOf_eq_some_iff, zoneBytes, List.map_map]
  exact List.map_congr_left fun z _ => (toNat_ofNat_byte (by omega)).symm

theorem zoneBytes_length (zs : List Zone) : (zoneBytes zs).length = zs.length := List.length_map _

theorem axisSetOf_maskByte (x : AxisSet) : axisSetOf (maskByte x) = some x := by
  have h : ∀ a b c d e f : Bool, axisSetOf (maskByte ⟨a, b, c, d, e, f⟩) = some ⟨a, b, c, d, e, f⟩ := by decide
  exact h _ _ _ _ _ _

/-! ## Parts of a payload -/

theorem readAxis_bytes {x : Option Int} (h : ∀ t, x = some t → Config.positionMin ≤ t ∧ t ≤ Config.positionMax)
    (bs : List Byte) : readAxis x.isSome (x.elim [] be24 ++ bs) = some (x, bs) := by
  cases x with
  | none => rfl
  | some t => simp [readAxis, be24, s24_be24 (h t rfl)]

theorem axesBytes_eq (v : PerAxis (Option Int)) : axesBytes v = v.pan.elim [] be24 ++ (v.tilt.elim [] be24
    ++ (v.zoom.elim [] be24 ++ (v.focus.elim [] be24 ++ (v.lift.elim [] be24 ++ (v.travel.elim [] be24 ++ []))))) := by
  have parts : axesBytes v = v.toList.flatMap fun x => x.elim [] be24 := by
    unfold axesBytes
    congr 1
    funext x
    cases x <;> rfl
  rw [parts]
  rfl

/-- The fields of the axes with a value are read back under the mask of those axes. -/
theorem readAxes_axesBytes {v : PerAxis (Option Int)}
    (h : ∀ a t, v.get a = some t → Config.positionMin ≤ t ∧ t ≤ Config.positionMax) :
    readAxes (maskByte v.present) (axesBytes v) = some v := by
  have pan : ∀ bs, readAxis v.pan.isSome (v.pan.elim [] be24 ++ bs) = _ := readAxis_bytes (h .pan)
  have tilt : ∀ bs, readAxis v.tilt.isSome (v.tilt.elim [] be24 ++ bs) = _ := readAxis_bytes (h .tilt)
  have zoom : ∀ bs, readAxis v.zoom.isSome (v.zoom.elim [] be24 ++ bs) = _ := readAxis_bytes (h .zoom)
  have focus : ∀ bs, readAxis v.focus.isSome (v.focus.elim [] be24 ++ bs) = _ := readAxis_bytes (h .focus)
  have lift : ∀ bs, readAxis v.lift.isSome (v.lift.elim [] be24 ++ bs) = _ := readAxis_bytes (h .lift)
  have travel : ∀ bs, readAxis v.travel.isSome (v.travel.elim [] be24 ++ bs) = _ := readAxis_bytes (h .travel)
  simp only [readAxes, axisSetOf_maskByte, axesBytes_eq, PerAxis.present, PerAxis.ofFn, PerAxis.get, pan, tilt, zoom, focus,
    lift, travel, Option.bind_eq_bind, Option.bind_some, if_true]

theorem axesBytes_length (v : PerAxis (Option Int)) : (axesBytes v).length ≤ 18 := by
  have part (x : Option Int) : (x.elim [] be24).length ≤ 3 := by cases x <;> simp [be24]
  have h1 := part v.pan
  have h2 := part v.tilt
  have h3 := part v.zoom
  have h4 := part v.focus
  have h5 := part v.lift
  have h6 := part v.travel
  simp only [axesBytes_eq, List.length_append, List.length_nil]
  omega

theorem readOpt8_bytes {x : Option Nat} (h : ∀ e, x = some e → e ≤ 255) (bs : List Byte) :
    readOpt8 x.isSome (x.elim [] be8 ++ bs) = some (x, bs) := by
  cases x with
  | none => rfl
  | some e => simp [readOpt8, be8, Nat.mod_eq_of_lt (Nat.lt_succ_of_le (h e rfl))]

theorem readOpt16_bytes {x : Option Nat} (h : ∀ d, x = some d → d ≤ 65535) (bs : List Byte) :
    readOpt16 x.isSome (x.elim [] be16 ++ bs) = some (x, bs) := by
  cases x with
  | none => rfl
  | some d => simp [readOpt16, be16, u16_be16 (h d rfl)]

theorem readCounted_zoneBytes {zs : List Zone} (h : zs.length ≤ 255) (bs : List Byte) :
    readCounted (be8 zs.length ++ (zoneBytes zs ++ bs)) = some (zoneBytes zs, bs) := by
  have count : (BitVec.ofNat 8 zs.length).toNat = (zoneBytes zs).length := by
    rw [toNat_ofNat_byte h, zoneBytes_length]
  simp [readCounted, be8, count]

/-! ## Shot records (R10, R183) -/

/-- The flags byte of a shot record. -/
def shotFlags (r : Shot) : Byte :=
  BitVec.ofNat 8 (r.live.toNat + 2 * r.ease.isSome.toNat + 4 * r.duration.isSome.toNat)

theorem shotFlags_bits (r : Shot) : (shotFlags r).toNat < 8 ∧ (shotFlags r).getLsbD 0 = r.live
    ∧ (shotFlags r).getLsbD 1 = r.ease.isSome ∧ (shotFlags r).getLsbD 2 = r.duration.isSome := by
  have h : ∀ a b c : Bool, let f := BitVec.ofNat 8 (a.toNat + 2 * b.toNat + 4 * c.toNat)
      f.toNat < 8 ∧ f.getLsbD 0 = a ∧ f.getLsbD 1 = b ∧ f.getLsbD 2 = c := by decide
  exact h _ _ _

theorem shotBytes_eq (r : Shot) : shotBytes r = chanByte r.channel :: BitVec.ofNat 8 (r.number / 256)
    :: BitVec.ofNat 8 r.number :: shotFlags r :: maskByte r.targets.present
    :: (r.ease.elim [] be8 ++ (r.duration.elim [] be16 ++ (be8 r.route.length ++ (zoneBytes r.route
      ++ (be8 r.rest.length ++ (zoneBytes r.rest ++ axesBytes r.targets)))))) := by
  unfold shotBytes
  cases ease : r.ease <;> cases duration : r.duration <;> simp [be16, shotFlags, ease, duration]

/-- The fields of a SHOT WRITE of a record. -/
def fieldsOfShot (r : Shot) : ShotFields :=
  ⟨chanByte r.channel, r.number, shotFlags r, r.targets, r.ease, r.duration, zoneBytes r.route, zoneBytes r.rest⟩

theorem readShot_shotBytes {r : Shot} (h : ShotOk r) : readShot (shotBytes r) = some (fieldsOfShot r) := by
  obtain ⟨-, number, ease, duration, route, rest, -, -, targets⟩ := h
  obtain ⟨-, -, bit1, bit2⟩ := shotFlags_bits r
  simp only [shotBytes_eq, readShot, bit1, bit2, Option.bind_eq_bind]
  rw [readOpt8_bytes fun e he => (ease e he).2]
  simp only [Option.bind_some]
  rw [readOpt16_bytes fun d hd => (duration d hd).2.trans (by decide)]
  simp only [Option.bind_some]
  rw [readCounted_zoneBytes (route.trans (by decide))]
  simp only [Option.bind_some]
  rw [readCounted_zoneBytes (rest.trans (by decide))]
  simp only [Option.bind_some]
  rw [readAxes_axesBytes targets, u16_be16 (number.trans (by decide))]
  rfl

theorem shotOf_fieldsOfShot {r : Shot} (h : ShotOk r) : shotOf (fieldsOfShot r) = some r := by
  obtain ⟨n0, n1, ease, duration, route, rest, routeNodup, restNodup, -⟩ := h
  obtain ⟨flags, bit0, -, -⟩ := shotFlags_bits r
  have hroute := zonesOf_zoneBytes r.route
  have hrest := zonesOf_zoneBytes r.rest
  have hc := chanOf_chanByte r.channel
  refine shotOf_eq_some_iff.2 ⟨⟨chanOf_lt hc, Nat.one_le_iff_ne_zero.1 n0, n1, flags, ?_, duration, ?_, ?_,
    List.forall_mem_append.2 ⟨zonesOf_lt hroute, zonesOf_lt hrest⟩, (zonesOf_nodup hroute).1 routeNodup,
    (zonesOf_nodup hrest).1 restNodup⟩, hc, hroute, hrest, rfl, bit0.symm, rfl, rfl, rfl⟩
  · exact fun e => absurd (ease 0 e).1 (by decide)
  · exact (zoneBytes_length r.route).trans_le route
  · exact (zoneBytes_length r.rest).trans_le rest

theorem shotBytes_length {r : Shot} (h : ShotOk r) : (shotBytes r).length + 2 ≤ Config.maxPayload := by
  obtain ⟨-, -, -, -, route, rest, -, -, -⟩ := h
  have ease : (r.ease.elim [] be8).length ≤ 1 := by cases r.ease <;> simp [be8]
  have duration : (r.duration.elim [] be16).length ≤ 2 := by cases r.duration <;> simp [be16]
  have targets := axesBytes_length r.targets
  simp only [shotBytes_eq, List.length_cons, List.length_append, zoneBytes_length, be8, List.length_nil, Config.maxPayload]
  omega

/-! ## Limit and configuration records (R29, R61) -/

theorem readLimit_limitBytes (ch ax : Byte) {l : Limits} (h : LimitRangeOk l) :
    readLimit (ch :: ax :: limitBytes l) = some ⟨ch, ax, l⟩ := by
  obtain ⟨⟨min, order, max⟩, ⟨-, vmax⟩, ⟨-, amax⟩, ⟨-, vlive⟩, ⟨-, alive⟩, ⟨-, astop⟩, follow, window⟩ := h
  simp only [limitBytes, be24, be16, List.cons_append, List.nil_append, readLimit, s24_be24 ⟨min, order.le.trans max⟩,
    s24_be24 ⟨min.trans order.le, max⟩, u16_be16 vmax, u16_be16 amax, u16_be16 vlive, u16_be16 alive, u16_be16 astop,
    u16_be16 follow, u16_be16 window]

/-- The fields of a CAMERA WRITE of a record. -/
def fieldsOfCamera (c : Chan) (r : CameraConfig) : CameraFields :=
  ⟨chanByte c, r.link, maskByte r.mask, r.defaultEase, r.queueLimit, r.zoneWaitLimit, r.settleLimit, r.reportTimeout,
    r.latency.val, zoneBytes r.manualZones⟩

theorem readCamera_cameraBytes (c : Chan) {r : CameraConfig} (h : ConfigOk r) :
    readCamera (cameraBytes c r) = some (fieldsOfCamera c r) := by
  obtain ⟨-, ⟨-, ease⟩, queue, wait, ⟨-, settle⟩, ⟨-, timeout⟩, zones, -⟩ := h
  have count : (zoneBytes r.manualZones).length = (BitVec.ofNat 8 r.manualZones.length).toNat := by
    rw [toNat_ofNat_byte (zones.trans (by decide)), zoneBytes_length]
  simp only [cameraBytes, be8, be16, List.cons_append, List.nil_append, readCamera]
  rw [if_pos count, toNat_ofNat_byte ease, toNat_ofNat_byte (queue.trans (by decide)), toNat_ofNat_byte settle,
    toNat_ofNat_byte timeout, toNat_ofNat_byte (by omega), u16_be16 (wait.trans (by decide))]
  rfl

theorem cameraOf_fieldsOfCamera (c : Chan) {r : CameraConfig} (h : ConfigOk r) : cameraOf (fieldsOfCamera c r) = some r := by
  obtain ⟨link, ⟨ease, -⟩, -, wait, ⟨settle, -⟩, ⟨timeout, -⟩, zones, nodup⟩ := h
  have mask : axisSetOf (fieldsOfCamera c r).mask = some r.mask := axisSetOf_maskByte r.mask
  have manual : zonesOf (fieldsOfCamera c r).manualZones = some r.manualZones := zonesOf_zoneBytes r.manualZones
  have latency : (fieldsOfCamera c r).latency < 8 := r.latency.isLt
  simp only [cameraOf, mask, manual, dif_pos latency]
  refine if_pos ?_
  simp only [Bool.and_eq_true, decide_eq_true_eq, bne_iff_ne, ne_eq]
  exact ⟨⟨⟨⟨⟨⟨link, Nat.one_le_iff_ne_zero.1 ease⟩, wait⟩, Nat.one_le_iff_ne_zero.1 settle⟩,
    Nat.one_le_iff_ne_zero.1 timeout⟩, zones⟩, nodup⟩

end Sys2Proof.Machine

namespace Sys2Proof.Proofs
open Sys2Proof.Machine

/-- Settles O11: each kind of record in its ranges is read back from its bytes field by field. -/
theorem storedRecordsReadBackAsWritten : Obligations.StoredRecordsReadBackAsWritten :=
  ⟨fun r h => ⟨⟨fieldsOfShot r, readShot_shotBytes h, shotOf_fieldsOfShot h⟩, shotBytes_length h⟩,
    fun c a _ h => readLimit_limitBytes (chanByte c) (BitVec.ofNat 8 a.number) h,
    fun c r h => ⟨fieldsOfCamera c r, readCamera_cameraBytes c h, rfl, cameraOf_fieldsOfCamera c h⟩⟩

end Sys2Proof.Proofs
end

section
/-! The frames of the Axis Limit Store, and CAMERA READ (R22 to R25, R29, R61). -/

namespace Sys2Proof.Machine

/-! ## Answers at the part's own address -/

/-- An answered frame that only reads the part adds its answer alone (R186). -/
theorem answered_reply {s : State} {kind : Byte} {replyOf : State → Reply} {r : Reply} (free : s.outFree ≠ 0)
    (h : replyOf (reserve (afterControl s)) = r) :
    answered kind (fun t => (t, replyOf t)) (afterControl s) = withAnswer s kind r :=
  answered_same free (congrArg (Prod.mk _) h)

/-- An answered frame whose execution changes one channel adds its answer to the part with that channel changed (R186). -/
theorem answered_modChan {s : State} {kind : Byte} {body : State → State × Reply} {c : Chan} {f : Channel → Channel}
    {r : Reply} (free : s.outFree ≠ 0)
    (h : body (reserve (afterControl s)) = ((reserve (afterControl s)).modChan c f, r)) :
    answered kind body (afterControl s) = withAnswer (s.modChan c f) kind r := by
  rw [answered_free (by simpa using free), h]
  rfl

theorem Axis_ofNumber_eq_none_iff {n : Nat} : Axis.ofNumber n = none ↔ 6 ≤ n :=
  match n with
  | 0 | 1 | 2 | 3 | 4 | 5 => ⟨nofun, by decide⟩
  | n + 6 => ⟨fun _ => Nat.le_add_left 6 n, fun _ => rfl⟩

theorem Axis_ofNumber_lt {n : Nat} {a : Axis} (h : Axis.ofNumber n = some a) : n < 6 :=
  Nat.not_le.1 fun k => nomatch h.symm.trans (Axis_ofNumber_eq_none_iff.2 k)

/-! ## LIMIT WRITE (R22 to R25) -/

theorem exec_limitWrite {s : State} {m : Msg} (h : AtPart s m (partCode .limitWrite)) :
    exec (.limitWrite m) s = .next (answered 0x25 (limitWriteBody m.payload) (afterControl s)) :=
  congrArg Host.Outcome.next (receive_part h.1 h.2.1)

/-- A LIMIT WRITE payload is 22 bytes long (R172). -/
theorem readLimit_eq_none {p : List Byte} (h : p.length ≠ 22) : readLimit p = none := by
  unfold readLimit
  split
  · exact absurd rfl h
  · rfl

/-- The ranges of R23 fail at one of the six fields they bound. -/
theorem limitsOk_false_iff (l : Limits) : limitsOk l = false
    ↔ l.maxPos ≤ l.minPos ∨ l.vmax = 0 ∨ l.amax = 0 ∨ l.vlive = 0 ∨ l.alive = 0 ∨ l.astop = 0 := by
  rw [Bool.eq_false_iff, Ne, limitsOk]
  simp only [Bool.and_eq_true, decide_eq_true_eq, bne_iff_ne, ne_eq]
  omega

/-- Bit 0 says that vlive was clamped, bit 1 that alive was (R22, R189). -/
theorem clampBits_eq (l : Limits) : clampBits l
    = BitVec.ofNat 8 ((if l.vmax < l.vlive then 1 else 0) + (if l.amax < l.alive then 2 else 0)) := by
  unfold clampBits
  split_ifs <;> simp [*]

/-- Out of the motion set a record is stored as the effective one (R24). -/
theorem modChan_storeLimits_rest {s : State} {c : Chan} (a : Axis) (l : Limits) (h : inMotion (s.chan c).phase = false) :
    s.modChan c (storeLimits a l) = s.modChan c fun ch => { ch with limits := ch.limits.set a (clampLive l) } :=
  congrArg (s.setChan c) (by simp [storeLimits, h])

/-- In the motion set a record is stored as the pending one (R25). -/
theorem modChan_storeLimits_motion {s : State} {c : Chan} (a : Axis) (l : Limits) (h : inMotion (s.chan c).phase = true) :
    s.modChan c (storeLimits a l)
      = s.modChan c fun ch => { ch with pendingLimits := ch.pendingLimits.set a (some (clampLive l)) } :=
  congrArg (s.setChan c) (by simp [storeLimits, h])

theorem limitWriteBody_badLength {p : List Byte} (s : State) (h : readLimit p = none) :
    limitWriteBody p s = (s, refuse .badLength) := by simp only [limitWriteBody, h]

theorem limitWriteBody_badParam {p : List Byte} {f : LimitFields} (s : State) (hf : readLimit p = some f)
    (h : 16 ≤ f.channel.toNat ∨ 6 ≤ f.axis.toNat ∨ limitsOk f.limits = false) :
    limitWriteBody p s = (s, refuse .badParam) := by
  cases hc : chanOf f.channel with
  | none => simp only [limitWriteBody, hf, hc]
  | some c =>
    cases ha : Axis.ofNumber f.axis.toNat with
    | none => simp only [limitWriteBody, hf, hc, ha]
    | some a =>
      have bad := (h.resolve_left (Nat.not_le.2 (chanOf_lt hc))).resolve_left (Nat.not_le.2 (Axis_ofNumber_lt ha))
      simp [limitWriteBody, hf, hc, ha, bad]

theorem limitWriteBody_accepted {p : List Byte} {f : LimitFields} {c : Chan} {a : Axis} (s : State)
    (hf : readLimit p = some f) (hc : chanOf f.channel = some c) (ha : Axis.ofNumber f.axis.toNat = some a)
    (ok : limitsOk f.limits = true) : limitWriteBody p s = (s.modChan c (storeLimits a f.limits),
      reply (if inMotion (s.chan c).phase then .okDeferred else .ok) [f.channel, f.axis, clampBits f.limits]) := by
  simp only [limitWriteBody, hf, hc, ha, ok, if_true]

/-! ## LIMIT READ (R29) -/

theorem exec_limitRead {s : State} {m : Msg} {r : Reply} (h : AtPart s m (partCode .limitRead))
    (hr : limitReadReply m.payload s = r) : exec (.limitRead m) s = .next (withAnswer s 0x26 r) :=
  congrArg Host.Outcome.next ((receive_part h.1 h.2.1).trans (answered_reply h.2.2 hr))

theorem limitReadReply_badParam {b x : Byte} (s : State) (h : 16 ≤ b.toNat ∨ 6 ≤ x.toNat) :
    limitReadReply [b, x] s = refuse .badParam := by
  cases hc : chanOf b with
  | none => simp only [limitReadReply, hc]
  | some c =>
    have axis := h.resolve_left (Nat.not_le.2 (chanOf_lt hc))
    simp only [limitReadReply, hc, Axis_ofNumber_eq_none_iff.2 axis]

theorem flagByte_isSome {α : Type} [DecidableEq α] (x : Option α) :
    flagByte x.isSome = [if x = none then 0 else 1] := by cases x <;> rfl

theorem limitReadReply_inRange {b x : Byte} {c : Chan} {a : Axis} (s : State) (hc : chanOf b = some c)
    (ha : Axis.ofNumber x.toNat = some a) : limitReadReply [b, x] s = reply .ok ([b, x]
      ++ limitBytes ((s.chan c).limits.get a) ++ [if (s.chan c).pendingLimits.get a = none then 0 else 1]) := by
  simp only [limitReadReply, hc, ha, flagByte_isSome]

/-! ## CAMERA READ (R61) -/

theorem exec_cameraRead {s : State} {m : Msg} {r : Reply} (h : AtPart s m (partCode .cameraRead))
    (hr : cameraReadReply m.payload s = r) : exec (.cameraRead m) s = .next (withAnswer s 0x28 r) :=
  congrArg Host.Outcome.next ((receive_part h.1 h.2.1).trans (answered_reply h.2.2 hr))

theorem cameraReadReply_badParam {b : Byte} (s : State) (h : 16 ≤ b.toNat) :
    cameraReadReply [b] s = refuse .badParam := by simp only [cameraReadReply, chanOf_eq_none_iff.2 h]

theorem cameraReadReply_chanByte (s : State) (c : Chan) : cameraReadReply [chanByte c] s
    = reply .ok (cameraBytes c (s.chan c).config ++ [phaseByte (s.chan c).phase]) := by
  simp only [cameraReadReply, chanOf_chanByte]

end Sys2Proof.Machine

namespace Sys2Proof.Proofs
open Sys2Proof.Machine

/-- Settles O12: a LIMIT WRITE is answered as its body answers, and where its record is stored is read off the channel's
phase. -/
theorem limitWriteStoresClampedRecord : Obligations.LimitWriteStoresClampedRecord := by
  intro s m h
  rw [exec_limitWrite h]
  refine ⟨fun length => ?_, fun f hf => ⟨fun bad => ?_, fun c a hc ha ok => ?_⟩⟩
  · exact congrArg _ (answered_same h.2.2 (limitWriteBody_badLength _ (readLimit_eq_none length)))
  · rw [← limitsOk_false_iff] at bad
    exact congrArg _ (answered_same h.2.2 (limitWriteBody_badParam _ hf bad))
  · rw [← limitsOk_false_iff, Bool.not_eq_false] at ok
    have accepted := limitWriteBody_accepted (reserve (afterControl s)) hf hc ha ok
    rw [answered_modChan h.2.2 accepted, clampBits_eq, reserve_chan, afterControl_chan]
    refine ⟨fun rest => ?_, fun motion => ?_⟩
    · rw [modChan_storeLimits_rest a f.limits rest, rest]
      rfl
    · rw [modChan_storeLimits_motion a f.limits motion, motion]
      rfl

/-- Settles O13: each read is answered by its reply, which is the refusal out of range and the record in range. -/
theorem limitReadAndCameraReadAnswerRecords : Obligations.LimitReadAndCameraReadAnswerRecords := by
  refine ⟨fun s m b x h payload => ⟨fun bad => ?_, fun c a hc ha => ?_⟩,
    fun s m h => ⟨fun b payload bad => ?_, fun c payload => ?_⟩⟩
  · exact exec_limitRead h (payload ▸ limitReadReply_badParam s bad)
  · exact exec_limitRead h (payload ▸ limitReadReply_inRange s hc ha)
  · exact exec_cameraRead h (payload ▸ cameraReadReply_badParam s bad)
  · exact exec_cameraRead h (payload ▸ cameraReadReply_chanByte s c)

end Sys2Proof.Proofs
end

section
/-! What the Profile Engine's operations on integers are: the rounding and the ceiling (R35), the clamp, and the largest of a
list (R36). -/

namespace Sys2Proof.Machine

/-! ## The profile rounding (R35) -/

/-- The magnitude of a rounding is that of the rounding of the magnitude. -/
theorem natAbs_profileRound (x : Int) (y : Nat) :
    (profileRound x y).natAbs = if 2 * (x.natAbs % y) < y then x.natAbs / y else x.natAbs / y + 1 := by
  unfold profileRound
  split <;> simp only [Int.natAbs_neg, Int.natAbs_natCast]

theorem profileRound_nonneg {x : Int} (h : 0 ≤ x) (y : Nat) : 0 ≤ profileRound x y := by
  rw [profileRound, if_neg (Int.not_lt.2 h)]
  exact Int.natCast_nonneg _

@[simp] theorem profileRound_zero {y : Nat} (hy : 0 < y) : profileRound 0 y = 0 := by
  rw [← Int.natAbs_eq_zero, natAbs_profileRound]
  simp [hy]

/-- The rounding is symmetric. -/
theorem profileRound_neg (x : Int) {y : Nat} (hy : 0 < y) : profileRound (-x) y = -profileRound x y := by
  obtain neg | rfl | pos := Int.lt_trichotomy x 0
  · have nonneg : ¬-x < 0 := by omega
    simp only [profileRound, Int.natAbs_neg, if_pos neg, if_neg nonneg, Int.neg_neg]
  · simp [hy]
  · have nonneg : ¬x < 0 := by omega
    simp only [profileRound, Int.natAbs_neg, if_pos (Int.neg_neg_of_pos pos), if_neg nonneg]

theorem profileRound_nonpos {x : Int} (h : x ≤ 0) {y : Nat} (hy : 0 < y) : profileRound x y ≤ 0 := by
  have opposite := profileRound_nonneg (Int.neg_nonneg_of_nonpos h) y
  rw [profileRound_neg x hy] at opposite
  omega

/-- A number that is not negative is rounded by a floor: half a unit is added first. -/
theorem profileRound_of_nonneg {x : Int} (h : 0 ≤ x) {y : Nat} (hy : 0 < y) :
    profileRound x y = (2 * x + y) / (2 * y) := by
  obtain ⟨n, rfl⟩ := Int.eq_ofNat_of_zero_le h
  have rest := Nat.mod_lt n hy
  have expanded : 2 * n + y = 2 * y * (n / y) + (2 * (n % y) + y) := by
    conv_lhs => rw [← Nat.div_add_mod n y]
    ring
  have half : (2 * (n % y) + y) / (2 * y) = if 2 * (n % y) < y then 0 else 1 := by
    split
    · exact Nat.div_eq_of_lt (by omega)
    · exact Nat.div_eq_of_lt_le (by omega) (by omega)
  have floor : (2 * n + y) / (2 * y) = if 2 * (n % y) < y then n / y else n / y + 1 := by
    rw [expanded, Nat.mul_add_div (by omega), half]
    split <;> rfl
  rw [profileRound_natCast, ← floor]
  push_cast
  rfl

/-- A number that is not negative is rounded to within half a unit, and an exact half upward. -/
theorem profileRound_near_of_nonneg {x : Int} (h : 0 ≤ x) {y : Nat} (hy : 0 < y) :
    2 * (profileRound x y * y) ≤ 2 * x + y ∧ 2 * x < 2 * (profileRound x y * y) + y := by
  have pos : (0 : Int) < 2 * y := by omega
  have least := Int.mul_ediv_self_le (x := 2 * x + y) pos.ne'
  have most := Int.lt_mul_ediv_self_add (x := 2 * x + y) pos
  rw [← profileRound_of_nonneg h hy, show 2 * (y : Int) * profileRound x y = 2 * (profileRound x y * y) by ring]
    at least most
  exact ⟨least, by omega⟩

/-- A rounding is within half of its quotient. -/
theorem profileRound_near (x : Int) {y : Nat} (hy : 0 < y) : 2 * (profileRound x y * y - x).natAbs ≤ y := by
  obtain nonneg | neg := Int.le_total 0 x
  · have near := profileRound_near_of_nonneg nonneg hy
    omega
  · have near := profileRound_near_of_nonneg (Int.neg_nonneg_of_nonpos neg) hy
    rw [profileRound_neg x hy, Int.neg_mul] at near
    omega

/-- The rounding never decreases. -/
theorem profileRound_mono {x x' : Int} {y : Nat} (hy : 0 < y) (h : x ≤ x') : profileRound x y ≤ profileRound x' y := by
  have ofNonneg {u u' : Int} (nonneg : 0 ≤ u) (le : u ≤ u') : profileRound u y ≤ profileRound u' y := by
    rw [profileRound_of_nonneg nonneg hy, profileRound_of_nonneg (nonneg.trans le) hy]
    exact Int.ediv_le_ediv (by omega) (by omega)
  obtain nonneg | neg := Int.le_total 0 x
  · exact ofNonneg nonneg h
  · obtain nonneg' | neg' := Int.le_total 0 x'
    · exact (profileRound_nonpos neg hy).trans (profileRound_nonneg nonneg' y)
    · have mirrored := ofNonneg (Int.neg_nonneg_of_nonpos neg') (Int.neg_le_neg h)
      rw [profileRound_neg x hy, profileRound_neg x' hy] at mirrored
      omega

/-- A common factor leaves the rounding of a quotient. -/
theorem profileRound_mul_mul_right (x : Int) (y : Nat) {c : Nat} (hc : 0 < c) :
    profileRound (x * c) (y * c) = profileRound x y := by
  have sign : x * c < 0 ↔ x < 0 := by
    rw [← Int.not_le, ← Int.not_le, mul_nonneg_iff_of_pos_right (Int.natCast_pos.2 hc)]
  have half : 2 * (x.natAbs % y * c) < y * c ↔ 2 * (x.natAbs % y) < y := by
    rw [← Nat.mul_assoc, Nat.mul_lt_mul_right hc]
  simp only [profileRound, Int.natAbs_mul, Int.natAbs_natCast, Nat.mul_div_mul_right _ _ hc, Nat.mul_mod_mul_right, sign,
    half]

/-- A quotient that is an integer needs no rounding. -/
theorem profileRound_mul_self (d : Int) {y : Nat} (hy : 0 < y) : profileRound (d * y) y = d := by
  have whole : profileRound d 1 = d := by
    simp only [profileRound, Nat.div_one, Nat.mod_one, Nat.mul_zero, Nat.zero_lt_one, if_true]
    omega
  simpa only [Nat.one_mul, whole] using profileRound_mul_mul_right d 1 hy

/-- Two roundings of multiples of one number by factors that are not negative differ from their exact difference by less
than a unit (R42). -/
theorem profileRound_sub_near (d : Int) {n n' : Int} (hn : 0 ≤ n) (hn' : 0 ≤ n') {y : Nat} (hy : 0 < y) :
    ((profileRound (d * n') y - profileRound (d * n) y) * y - d * (n' - n)).natAbs < y := by
  have ofNonneg {e : Int} (he : 0 ≤ e) :
      ((profileRound (e * n') y - profileRound (e * n) y) * y - e * (n' - n)).natAbs < y := by
    have near := profileRound_near_of_nonneg (Int.mul_nonneg he hn) hy
    have near' := profileRound_near_of_nonneg (Int.mul_nonneg he hn') hy
    rw [Int.sub_mul, Int.mul_sub]
    omega
  obtain nonneg | neg := Int.le_total 0 d
  · exact ofNonneg nonneg
  · have mirrored := ofNonneg (Int.neg_nonneg_of_nonpos neg)
    simp only [Int.neg_mul, profileRound_neg _ hy, Int.sub_mul] at mirrored ⊢
    omega

/-! ## Ceilings, clamps and largest values (R35, R36) -/

/-- A ceiling is the smallest integer not less than the quotient. -/
theorem ceilDiv_le_iff (n q : Nat) {y : Nat} (hy : 0 < y) : ceilDiv n y ≤ q ↔ n ≤ q * y := by
  rw [ceilDiv, Nat.div_le_iff_le_mul_add_pred hy, Nat.mul_comm y q]
  omega

/-- A clamp to a travel whose ends are in order. -/
theorem clampPos_eq {lo hi : Int} (h : lo ≤ hi) (p : Int) : clampPos lo hi p = max lo (min hi p) := by
  unfold clampPos
  split_ifs <;> omega

theorem clampPos_mem {lo hi : Int} (h : lo ≤ hi) (p : Int) : lo ≤ clampPos lo hi p ∧ clampPos lo hi p ≤ hi := by
  rw [clampPos_eq h]
  omega

theorem clampPos_of_mem {lo hi p : Int} (hlo : lo ≤ p) (hhi : p ≤ hi) : clampPos lo hi p = p := by
  rw [clampPos_eq (hlo.trans hhi)]
  omega

theorem listMax_le_iff (xs : List Nat) (n : Nat) : listMax xs ≤ n ↔ ∀ x ∈ xs, x ≤ n := by
  induction xs with
  | nil => simp [listMax]
  | cons x xs ih =>
    rw [List.forall_mem_cons, ← ih]
    exact Nat.max_le

theorem le_listMax {xs : List Nat} {x : Nat} (h : x ∈ xs) : x ≤ listMax xs := (listMax_le_iff xs _).1 le_rfl x h

/-- A largest value that is not 0 is one of the list. -/
theorem listMax_mem {xs : List Nat} (h : listMax xs ≠ 0) : listMax xs ∈ xs := by
  induction xs with
  | nil => exact absurd rfl h
  | cons x xs ih =>
    have step : listMax (x :: xs) = max x (listMax xs) := rfl
    obtain first | later := Nat.le_total (listMax xs) x
    · rw [step, Nat.max_eq_left first]
      exact List.mem_cons_self
    · rw [step, Nat.max_eq_right later] at h ⊢
      exact List.mem_cons_of_mem _ (ih h)

/-- The largest value of a function on a list is the one at a place where it is largest. -/
theorem listMax_map {α : Type} {xs : List α} {f : α → Nat} {a : α} (ha : a ∈ xs) (h : ∀ b ∈ xs, f b ≤ f a) :
    listMax (xs.map f) = f a :=
  Nat.le_antisymm ((listMax_le_iff _ _).2 (List.forall_mem_map.2 h)) (le_listMax (List.mem_map_of_mem ha))

end Sys2Proof.Machine

namespace Sys2Proof.Proofs
open Sys2Proof.Machine

/-- Settles O14: a magnitude aY + b has quotient a and remainder b, and the rest is said once of every rounding. -/
theorem profileRoundingIsNearestHalvesAway : Obligations.ProfileRoundingIsNearestHalvesAway := by
  intro x y hy
  refine ⟨fun a b hb magnitude => ?_, fun h => profileRound_nonneg h y, fun h => profileRound_nonpos h hy,
    profileRound_near x hy, profileRound_neg x hy, fun n q => (ceilDiv_le_iff n q hy).symm⟩
  obtain ⟨quotient, remainder⟩ : x.natAbs / y = a ∧ x.natAbs % y = b :=
    (Nat.div_mod_unique hy).2 ⟨by rw [magnitude]; ring, hb⟩
  rw [natAbs_profileRound, quotient, remainder]

end Sys2Proof.Proofs
end

section
/-! The profile: the numerator and its steps (R40), the positions (R41), and their increments (R42). -/

namespace Sys2Proof.Machine

/-! ## The numerator (R40)

The duration of a profile is R + W. -/

theorem numerator_easeIn {r k : Nat} (h : k ≤ r) (t : Nat) : numerator r t k = (k : Int) * k := if_pos h

/-- The cruise, with both its ends. -/
theorem numerator_cruise {r w k : Nat} (hr : r ≤ k) (hw : k ≤ w) :
    numerator r (r + w) k = 2 * r * k - r * r := by
  obtain rfl | later := hr.eq_or_lt
  · rw [numerator_easeIn le_rfl]
    ring
  · have within : (k : Int) ≤ (r + w : Nat) - r := by omega
    rw [numerator, if_neg (Nat.not_le.2 later), if_pos within]

/-- The ease-out, with both its ends. -/
theorem numerator_easeOut {r w k : Nat} (h : r ≤ w) (hw : w ≤ k) :
    numerator r (r + w) k = 2 * r * w - ((r + w : Nat) - (k : Int)) * ((r + w : Nat) - (k : Int)) := by
  obtain rfl | later := hw.eq_or_lt
  · rw [numerator_cruise h le_rfl]
    push_cast
    ring
  · have past : ¬(k : Int) ≤ (r + w : Nat) - r := by omega
    rw [numerator, if_neg (Nat.not_le.2 (h.trans_lt later)), if_neg past]
    push_cast
    ring

theorem numerator_zero (r t : Nat) : numerator r t 0 = 0 := numerator_easeIn (Nat.zero_le r) t

theorem numerator_end {r w : Nat} (h : r ≤ w) : numerator r (r + w) (r + w) = 2 * r * w := by
  rw [numerator_easeOut h (Nat.le_add_left w r), Int.sub_self, Int.mul_zero, Int.sub_zero]

/-- The step of the numerator is the least of the steps of the three ranges. -/
theorem numerator_step {r w : Nat} (h : r ≤ w) (k : Nat) : numerator r (r + w) (k + 1) - numerator r (r + w) k
    = min (2 * (k : Int) + 1) (min (2 * r) (2 * (r + w - k) - 1)) := by
  obtain easeIn | later := Nat.lt_or_ge k r
  · have step : numerator r (r + w) (k + 1) - numerator r (r + w) k = 2 * k + 1 := by
      rw [numerator_easeIn easeIn, numerator_easeIn easeIn.le]
      push_cast
      ring
    omega
  · obtain cruise | easeOut := Nat.lt_or_ge k w
    · have step : numerator r (r + w) (k + 1) - numerator r (r + w) k = 2 * r := by
        rw [numerator_cruise (later.trans k.le_succ) cruise, numerator_cruise later cruise.le]
        push_cast
        ring
      omega
    · have step : numerator r (r + w) (k + 1) - numerator r (r + w) k = 2 * (r + w - k) - 1 := by
        rw [numerator_easeOut h (easeOut.trans k.le_succ), numerator_easeOut h easeOut]
        push_cast
        ring
      omega

theorem numerator_step_mem {r w k : Nat} (h : r ≤ w) (hk : k < r + w) :
    0 ≤ numerator r (r + w) (k + 1) - numerator r (r + w) k
      ∧ numerator r (r + w) (k + 1) - numerator r (r + w) k ≤ 2 * r := by
  have step := numerator_step h k
  omega

/-- Two steps that follow each other differ by at most 2. -/
theorem numerator_step_change {r w : Nat} (h : r ≤ w) (k : Nat) :
    (numerator r (r + w) (k + 1 + 1) - numerator r (r + w) (k + 1)
      - (numerator r (r + w) (k + 1) - numerator r (r + w) k)).natAbs ≤ 2 := by
  have step := numerator_step h k
  have next := numerator_step h (k + 1)
  omega

theorem numerator_mono {r w k j : Nat} (h : r ≤ w) (hkj : k ≤ j) (hj : j ≤ r + w) :
    numerator r (r + w) k ≤ numerator r (r + w) j := by
  induction j, hkj using Nat.le_induction with
  | base => exact le_rfl
  | succ j _ ih =>
    have rises := (numerator_step_mem h hj).1
    exact (ih (Nat.le_of_succ_le hj)).trans (by omega)

theorem numerator_nonneg {r w k : Nat} (h : r ≤ w) (hk : k ≤ r + w) : 0 ≤ numerator r (r + w) k := by
  simpa only [numerator_zero] using numerator_mono h k.zero_le hk

/-! ## Positions (R41) -/

theorem ShapedMove.dur_eq {m : Move} (h : ShapedMove m) : m.dur = m.ease + m.w := by
  obtain ⟨-, twice, hw, -⟩ := h
  omega

theorem ShapedMove.ease_le {m : Move} (h : ShapedMove m) : m.ease ≤ m.w := by
  obtain ⟨-, twice, hw, -⟩ := h
  omega

theorem ShapedMove.ease_pos {m : Move} (h : ShapedMove m) : 0 < m.ease := h.1

theorem ShapedMove.q_eq {m : Move} (h : ShapedMove m) : m.q = 2 * m.ease * m.w := h.2.2.2

theorem ShapedMove.q_pos {m : Move} (h : ShapedMove m) : 0 < m.q := by
  rw [h.q_eq]
  exact Nat.mul_pos (Nat.mul_pos two_pos h.ease_pos) (h.ease_pos.trans_le h.ease_le)

theorem profilePos_zero {m : Move} (h : ShapedMove m) (a : Axis) : profilePos m a 0 = m.start.get a := by
  rw [profilePos, numerator_zero, Int.mul_zero, profileRound_zero h.q_pos, Int.add_zero]

/-- A profile ends at its distance from its start exactly. -/
theorem profilePos_dur {m : Move} (h : ShapedMove m) (a : Axis) :
    profilePos m a m.dur = m.start.get a + m.dist.get a := by
  have whole : numerator m.ease m.dur m.dur = m.q := by
    rw [h.dur_eq, numerator_end h.ease_le, h.q_eq]
    push_cast
    rfl
  rw [profilePos, whole, profileRound_mul_self _ h.q_pos]

/-- Positions do not move back against a distance that is not negative. -/
theorem profilePos_mono {m : Move} {a : Axis} {k j : Nat} (h : ShapedMove m) (hd : 0 ≤ m.dist.get a) (hkj : k ≤ j)
    (hj : j ≤ m.dur) : profilePos m a k ≤ profilePos m a j := by
  rw [h.dur_eq] at hj
  rw [profilePos, profilePos, h.dur_eq]
  exact Int.add_le_add_left
    (profileRound_mono h.q_pos (Int.mul_le_mul_of_nonneg_left (numerator_mono h.ease_le hkj hj) hd)) _

/-- Positions do not move back against a distance that is not positive. -/
theorem profilePos_anti {m : Move} {a : Axis} {k j : Nat} (h : ShapedMove m) (hd : m.dist.get a ≤ 0) (hkj : k ≤ j)
    (hj : j ≤ m.dur) : profilePos m a j ≤ profilePos m a k := by
  rw [h.dur_eq] at hj
  rw [profilePos, profilePos, h.dur_eq]
  exact Int.add_le_add_left
    (profileRound_mono h.q_pos (Int.mul_le_mul_of_nonpos_left hd (numerator_mono h.ease_le hkj hj))) _

/-! ## Increments (R42) -/

/-- A field's increment is within one count of its exact value. -/
theorem profilePos_step_near {m : Move} (a : Axis) {k : Nat} (h : ShapedMove m) (hk : k < m.dur) :
    ((profilePos m a (k + 1) - profilePos m a k) * m.q
      - m.dist.get a * (numerator m.ease m.dur (k + 1) - numerator m.ease m.dur k)).natAbs < m.q := by
  rw [h.dur_eq] at hk
  rw [profilePos, profilePos, h.dur_eq, Int.add_sub_add_left]
  exact profileRound_sub_near _ (numerator_nonneg h.ease_le hk.le) (numerator_nonneg h.ease_le hk) h.q_pos

/-- A count d that is less than c units from an exact x / y has a magnitude below that of x / y and c together. -/
theorem natAbs_lt_of_near {d x : Int} {y b c : Nat} (near : (d * y - x).natAbs < c * y) (bound : x.natAbs ≤ b * y) :
    d.natAbs < b + c := by
  have magnitude : (d * y).natAbs = d.natAbs * y := by rw [Int.natAbs_mul, Int.natAbs_natCast]
  have scaled : d.natAbs * y < (b + c) * y := by
    rw [Nat.add_mul]
    omega
  exact Nat.lt_of_mul_lt_mul_right scaled

/-- No increment is above a rate V for which the distance is at most V · W. -/
theorem profilePos_step_le {m : Move} {a : Axis} {k v : Nat} (h : ShapedMove m) (hk : k < m.dur)
    (hv : (m.dist.get a).natAbs ≤ v * m.w) : (profilePos m a (k + 1) - profilePos m a k).natAbs ≤ v := by
  have near := profilePos_step_near a h hk
  have step := numerator_step_mem h.ease_le (h.dur_eq ▸ hk)
  rw [← h.dur_eq] at step
  refine Nat.lt_succ_iff.1 (natAbs_lt_of_near (c := 1) (by rwa [Nat.one_mul]) ?_)
  calc (m.dist.get a * (numerator m.ease m.dur (k + 1) - numerator m.ease m.dur k)).natAbs
      = (m.dist.get a).natAbs * (numerator m.ease m.dur (k + 1) - numerator m.ease m.dur k).natAbs := Int.natAbs_mul ..
    _ ≤ v * m.w * (2 * m.ease) := Nat.mul_le_mul hv (by omega)
    _ = v * m.q := by rw [h.q_eq]; ring

/-- The first increment is at most a rate A for which the distance is at most A · R · W. -/
theorem profilePos_first_step_le {m : Move} {a : Axis} {acc : Nat} (h : ShapedMove m) (hk : 0 < m.dur)
    (ha : (m.dist.get a).natAbs ≤ acc * m.ease * m.w) : (profilePos m a 1 - profilePos m a 0).natAbs ≤ acc := by
  have near := profilePos_step_near a h hk
  have first : numerator m.ease m.dur (0 + 1) - numerator m.ease m.dur 0 = 1 := by
    rw [numerator_zero, numerator_easeIn h.ease_pos]
    rfl
  rw [first, Int.mul_one] at near
  refine Nat.lt_succ_iff.1 (natAbs_lt_of_near (c := 1) (by rwa [Nat.one_mul]) ?_)
  calc (m.dist.get a).natAbs ≤ acc * m.ease * m.w := ha
    _ ≤ 2 * (acc * m.ease * m.w) := by omega
    _ = acc * m.q := by rw [h.q_eq]; ring

/-- Two increments that follow each other differ by at most A + 1, for a rate A for which the distance is at most
A · R · W: the exact increments differ by at most A, and each is met to within one count. -/
theorem profilePos_step_change_le {m : Move} {a : Axis} {k acc : Nat} (h : ShapedMove m) (hk : k + 1 < m.dur)
    (ha : (m.dist.get a).natAbs ≤ acc * m.ease * m.w) :
    (profilePos m a (k + 1 + 1) - profilePos m a (k + 1) - (profilePos m a (k + 1) - profilePos m a k)).natAbs
      ≤ acc + 1 := by
  have near := profilePos_step_near a h (Nat.lt_of_succ_lt hk)
  have nearNext := profilePos_step_near a h hk
  have change := numerator_step_change h.ease_le k
  rw [← h.dur_eq] at change
  refine Nat.lt_succ_iff.1 (natAbs_lt_of_near (y := m.q) (c := 2)
    (x := m.dist.get a * (numerator m.ease m.dur (k + 1 + 1) - numerator m.ease m.dur (k + 1)
      - (numerator m.ease m.dur (k + 1) - numerator m.ease m.dur k))) ?_ ?_)
  · rw [Int.sub_mul, Int.mul_sub]
    omega
  · rw [Int.natAbs_mul]
    refine (Nat.mul_le_mul ha change).trans (le_of_eq ?_)
    rw [h.q_eq]
    ring

end Sys2Proof.Machine

namespace Sys2Proof.Proofs
open Sys2Proof.Machine

/-- Settles O16: the three ranges are the branches of the numerator with their ends, and its step is the least of the
three. -/
theorem profileNumeratorRisesFromZeroToQ : Obligations.ProfileNumeratorRisesFromZeroToQ := by
  intro r t hr ht
  obtain ⟨w, rfl⟩ := Nat.exists_eq_add_of_le (show r ≤ t by omega)
  have h : r ≤ w := by omega
  rw [Nat.add_sub_cancel_left]
  refine ⟨h, by omega, fun k hk => numerator_easeIn hk _, fun k => numerator_cruise,
    fun k hk _ => numerator_easeOut h hk, numerator_zero r _, numerator_end h, fun k hk => ?_, fun k hk hw => ?_,
    fun k hw hk => ?_, fun k => numerator_step_mem h⟩
  · have step := numerator_step h k
    omega
  · have step := numerator_step h k
    omega
  · have step := numerator_step h k
    omega

/-- Settles O17: both ends are exact, and positions are monotone in the direction of the distance. -/
theorem profileRunsFromStartToTarget : Obligations.ProfileRunsFromStartToTarget := by
  intro m a h target
  have ends : profilePos m a m.dur = m.target.get a := (profilePos_dur h a).trans target.symm
  refine ⟨profilePos_zero h a, ends, fun k _ => by rw [profilePos, h.q_eq], fun k j hkj hj => ?_⟩
  rw [← ends, ← profilePos_zero h a]
  exact ⟨fun hd => ⟨profilePos_mono h hd k.zero_le (hkj.trans hj), profilePos_mono h hd hkj hj,
      profilePos_mono h hd hj le_rfl⟩,
    fun hd => ⟨profilePos_anti h hd hj le_rfl, profilePos_anti h hd hkj hj,
      profilePos_anti h hd k.zero_le (hkj.trans hj)⟩⟩

end Sys2Proof.Proofs
end

section
/-! The planned move: what it takes from the cue, the shot and the channel (R34, R105, R106), its duration (R36 to R38),
and the rates its duration keeps (R42). -/

namespace Sys2Proof.Machine

/-! ## Inputs (R34, R105, R106) -/

theorem movedAxes_get (ch : Channel) (r : Shot) (a : Axis) :
    (movedAxes ch r).get a = true ↔ r.targets.get a ≠ none ∧ ch.config.mask.get a = true := by
  simp [movedAxes, AxisSet.inter, PerAxis.present, Option.isSome_iff_ne_none]

theorem clampedTarget_some {ch : Channel} {r : Shot} {a : Axis} {t : Int} (h : r.targets.get a = some t) :
    clampedTarget ch r a = clampPos (ch.limits.get a).minPos (ch.limits.get a).maxPos t := by
  simp only [clampedTarget, h]

theorem mem_requestedZones (r : Shot) (z : Zone) : z ∈ requestedZones r ↔ z ∈ r.route ∨ z ∈ r.rest := by
  simp only [requestedZones, List.mem_append, List.mem_filter, Bool.not_eq_true', List.contains_eq_mem,
    decide_eq_false_iff_not]
  tauto

theorem requestedZones_nodup {r : Shot} (route : r.route.Nodup) (rest : r.rest.Nodup) : (requestedZones r).Nodup :=
  route.append (rest.filter _) fun z inRoute inRest => by
    have outside := (List.mem_filter.1 inRest).2
    simp [inRoute] at outside

section
variable (ch : Channel) (q : Cue) (r : Shot) (live : Bool)

theorem planMove_target (a : Axis) : (planMove ch q r live).target.get a
    = if (planMove ch q r live).moved.get a then clampedTarget ch r a else ch.commanded.get a :=
  PerAxis_get_ofFn _ a

theorem planMove_dist (a : Axis) : (planMove ch q r live).dist.get a
    = if (planMove ch q r live).moved.get a then clampedTarget ch r a - ch.commanded.get a else 0 :=
  PerAxis_get_ofFn _ a

/-- The distance of every axis is its target less its start: an axis not moved has its start for target. -/
theorem planMove_dist_eq_sub (a : Axis) : (planMove ch q r live).dist.get a
    = (planMove ch q r live).target.get a - (planMove ch q r live).start.get a := by
  rw [planMove_dist, planMove_target]
  split
  · rfl
  · exact (Int.sub_self _).symm

/-- CLAMPED is set exactly where a moved axis is not sent to the target the shot gives it. -/
theorem planMove_clamped_iff : (planMove ch q r live).clamped = true ↔ ∃ a t,
    (planMove ch q r live).moved.get a = true ∧ r.targets.get a = some t
      ∧ (planMove ch q r live).target.get a ≠ t := by
  have clamped : (planMove ch q r live).clamped
      = allAxes.any fun a => (planMove ch q r live).moved.get a && r.targets.get a != some (clampedTarget ch r a) := rfl
  simp only [clamped, List.any_eq_true, Bool.and_eq_true, bne_iff_ne]
  constructor
  · rintro ⟨a, -, moved, changed⟩
    obtain ⟨t, target⟩ := Option.ne_none_iff_exists'.1 ((movedAxes_get ch r a).1 moved).1
    refine ⟨a, t, moved, target, fun same => changed ?_⟩
    rw [target, ← same, planMove_target, if_pos moved]
  · rintro ⟨a, t, moved, target, changed⟩
    refine ⟨a, mem_allAxes a, moved, fun same => changed ?_⟩
    rw [planMove_target, if_pos moved]
    exact Option.some.inj (same.symm.trans target)

end

/-! ## Duration (R36 to R38) -/

theorem mem_movingAxes (moved : AxisSet) (dist : PerAxis Int) (a : Axis) :
    a ∈ movingAxes moved dist ↔ moved.get a = true ∧ dist.get a ≠ 0 := by
  simp [movingAxes, mem_allAxes]

/-- The axes that move in a move record. -/
def axesMoving (m : Move) : List Axis := movingAxes m.moved m.dist

theorem mem_axesMoving (m : Move) (a : Axis) : a ∈ axesMoving m ↔ m.moved.get a = true ∧ m.dist.get a ≠ 0 :=
  mem_movingAxes m.moved m.dist a

/-- The minimum cruise length of an axis of a move record (R36). -/
def cruiseOf (limits : PerAxis Limits) (m : Move) (a : Axis) : Nat :=
  cruiseLength (m.dist.get a) (rates (limits.get a) m.live).1 (rates (limits.get a) m.live).2 m.ease

/-- The shortest duration that the rates allow a move record (R36). -/
def shortestOf (limits : PerAxis Limits) (m : Move) : Nat := shortest limits m.live m.moved m.dist m.ease

/-- The ease and the cruise length of the moving axis where that is largest. -/
theorem shortestOf_eq {limits : PerAxis Limits} {m : Move} {a : Axis} (moving : a ∈ axesMoving m)
    (largest : ∀ b ∈ axesMoving m, cruiseOf limits m b ≤ cruiseOf limits m a) :
    shortestOf limits m = m.ease + cruiseOf limits m a :=
  congrArg (m.ease + ·) (listMax_map moving largest)

theorem ease_add_cruiseOf_le {limits : PerAxis Limits} {m : Move} {a : Axis} (moving : a ∈ axesMoving m) :
    m.ease + cruiseOf limits m a ≤ shortestOf limits m :=
  Nat.add_le_add_left (le_listMax (List.mem_map_of_mem moving)) _

theorem rates_fst (l : Limits) (live : Bool) : (rates l live).1 = if live then l.vlive else l.vmax := by
  cases live <;> rfl

theorem rates_snd (l : Limits) (live : Bool) : (rates l live).2 = if live then l.alive else l.amax := by
  cases live <;> rfl

section
variable (ch : Channel) (q : Cue) (r : Shot) (live : Bool)

theorem planMove_dur : (planMove ch q r live).dur = if (axesMoving (planMove ch q r live)).isEmpty then 0
    else max (shortestOf ch.limits (planMove ch q r live))
      (max (2 * (planMove ch q r live).ease) (requestedDuration q r)) := rfl

theorem planMove_stretched : (planMove ch q r live).stretched = (!(axesMoving (planMove ch q r live)).isEmpty
    && 0 < requestedDuration q r && requestedDuration q r < shortestOf ch.limits (planMove ch q r live)) := rfl

/-- A move with no moving axis is a zero-distance move (R38). -/
theorem planMove_of_still (h : axesMoving (planMove ch q r live) = []) :
    (planMove ch q r live).dur = 0 ∧ (planMove ch q r live).stretched = false := by
  rw [planMove_dur, planMove_stretched, h]
  exact ⟨rfl, rfl⟩

/-- The duration of a move with a moving axis is the largest of three (R37). -/
theorem planMove_dur_of_moving {a : Axis} (h : a ∈ axesMoving (planMove ch q r live)) : (planMove ch q r live).dur
    = max (shortestOf ch.limits (planMove ch q r live))
      (max (2 * (planMove ch q r live).ease) (requestedDuration q r)) := by
  rw [planMove_dur, if_neg (by simpa using List.ne_nil_of_mem h)]

/-- A move with a moving axis is STRETCHED where the shortest duration is above the requested one (R37). -/
theorem planMove_stretched_of_moving {a : Axis} (h : a ∈ axesMoving (planMove ch q r live)) :
    (planMove ch q r live).stretched = true ↔ 0 < requestedDuration q r
      ∧ requestedDuration q r < shortestOf ch.limits (planMove ch q r live) := by
  rw [planMove_stretched, List.isEmpty_eq_false_iff.2 (List.ne_nil_of_mem h)]
  simp only [Bool.not_false, Bool.true_and, Bool.and_eq_true, decide_eq_true_eq]

theorem exists_moving_of_dur_ne_zero (h : (planMove ch q r live).dur ≠ 0) :
    ∃ a, a ∈ axesMoving (planMove ch q r live) :=
  List.exists_mem_of_ne_nil _ fun still => h (planMove_of_still ch q r live still).1

/-! ## Rates (R42) -/

/-- A planned move that is not a zero-distance move has a profile. -/
theorem planMove_shaped (ease : 1 ≤ (planMove ch q r live).ease) (h : (planMove ch q r live).dur ≠ 0) :
    ShapedMove (planMove ch q r live) := by
  obtain ⟨a, moving⟩ := exists_moving_of_dur_ne_zero ch q r live h
  have twice : 2 * (planMove ch q r live).ease ≤ (planMove ch q r live).dur := by
    rw [planMove_dur_of_moving ch q r live moving]
    omega
  exact ⟨ease, twice, rfl, rfl⟩

/-- W is at least the cruise length of every moving axis. -/
theorem cruiseOf_le_planMove_w {a : Axis} (h : a ∈ axesMoving (planMove ch q r live)) :
    cruiseOf ch.limits (planMove ch q r live) a ≤ (planMove ch q r live).w := by
  have least := ease_add_cruiseOf_le (limits := ch.limits) h
  have dur := planMove_dur_of_moving ch q r live h
  have w : (planMove ch q r live).w = (planMove ch q r live).dur - (planMove ch q r live).ease := rfl
  omega

/-- W is long enough for both rates of every axis: the distance is at most V · W, and at most A · R · W. -/
theorem planMove_dist_le {a : Axis} {v acc : Nat} (rated : rates (ch.limits.get a) live = (v, acc)) (hv : 1 ≤ v)
    (hacc : 1 ≤ acc) (ease : 1 ≤ (planMove ch q r live).ease) (moved : (planMove ch q r live).moved.get a = true) :
    ((planMove ch q r live).dist.get a).natAbs ≤ v * (planMove ch q r live).w
      ∧ ((planMove ch q r live).dist.get a).natAbs ≤ acc * (planMove ch q r live).ease * (planMove ch q r live).w := by
  by_cases still : (planMove ch q r live).dist.get a = 0
  · simp only [still, Int.natAbs_zero, Nat.zero_le, and_self]
  · have long := cruiseOf_le_planMove_w ch q r live ((mem_axesMoving _ a).2 ⟨moved, still⟩)
    have live_eq : (planMove ch q r live).live = live := rfl
    rw [cruiseOf, live_eq, rated, cruiseLength, Nat.max_le, ceilDiv_le_iff _ _ hv,
      ceilDiv_le_iff _ _ (Nat.mul_pos hacc ease)] at long
    rwa [Nat.mul_comm v, Nat.mul_comm (acc * _)]

end

end Sys2Proof.Machine

namespace Sys2Proof.Proofs
open Sys2Proof.Machine

/-- Settles O15: the inputs are read off the planned move, and its duration off the moving axis of largest cruise
length. -/
theorem plannedMoveTakesShotAndLongestDuration : Obligations.PlannedMoveTakesShotAndLongestDuration := by
  intro ch q r live m moving cruise
  have cruise_eq (a : Axis) : cruise a = cruiseOf ch.limits m a := by
    rw [cruiseOf, cruiseLength, rates_fst, rates_snd]
    rfl
  have moving_iff (a : Axis) : moving a ↔ a ∈ axesMoving m := (mem_axesMoving m a).symm
  refine ⟨rfl, rfl, rfl, rfl, rfl, rfl, rfl, movedAxes_get ch r,
    fun a => ⟨rfl, planMove_dist_eq_sub ch q r live a⟩, fun a t moved target => ?_, fun a still => ?_,
    planMove_clamped_iff ch q r live, mem_requestedZones r, requestedZones_nodup, rfl, fun still => ?_,
    fun a tmin ha largest htmin => ?_⟩
  · rw [planMove_target, if_pos moved, clampedTarget_some target]
    rfl
  · rw [planMove_dist, if_neg (Bool.eq_false_iff.1 still)]
  · exact planMove_of_still ch q r live (List.eq_nil_iff_forall_not_mem.2 fun a ha => still a ((moving_iff a).2 ha))
  · have hmoving := (moving_iff a).1 ha
    have shortest_eq : tmin = shortestOf ch.limits m := by
      rw [htmin, cruise_eq, shortestOf_eq hmoving fun b hb => ?_]
      rw [← cruise_eq, ← cruise_eq]
      exact largest b ((moving_iff b).2 hb)
    rw [shortest_eq]
    exact ⟨planMove_dur_of_moving ch q r live hmoving, planMove_stretched_of_moving ch q r live hmoving, rfl, rfl⟩

/-- Settles O18: the duration leaves W long enough for both rates, and the increments keep every rate W is long enough
for. -/
theorem profileIncrementsKeepRates : Obligations.ProfileIncrementsKeepRates := by
  intro ch q r live a m v acc step ease rated moved dur k hk
  have shaped : ShapedMove m := planMove_shaped ch q r live ease dur
  have rates_eq : rates (ch.limits.get a) live = (v, acc) := Prod.ext (rates_fst _ _) (rates_snd _ _)
  obtain ⟨hv, hacc⟩ := rates_eq ▸ rated a
  obtain ⟨cruise, eases⟩ := planMove_dist_le ch q r live rates_eq hv hacc ease moved
  refine ⟨profilePos_step_le shaped hk cruise, ?_, fun hk' => profilePos_step_change_le shaped hk' eases⟩
  rintro rfl
  exact (profilePos_first_step_le shaped hk eases).trans (Nat.le_succ acc)

end Sys2Proof.Proofs
end

section
/-! The sub-points of a field (R43), the stop ramp (R44 to R46) and the jog step (R48 to R50). -/

namespace Sys2Proof.Machine

/-! ## Sub-points (R43) -/

/-- The magnitude of sub-step i of an increment of magnitude n. -/
def subStep (n i : Nat) : Nat := if i < n % 4 then n / 4 + 1 else n / 4

theorem subStep_sum (n : Nat) : subStep n 0 + subStep n 1 + subStep n 2 + subStep n 3 = n := by
  unfold subStep
  split_ifs <;> omega

theorem subStep_last (n : Nat) : subStep n 3 = n / 4 := if_neg (by omega)

/-- The sub-points are the sums of the sub-steps, with the sign of the increment. -/
theorem dither_eq (p p' : Int) :
    let n := (p' - p).natAbs
    let sign : Int := if p' < p then -1 else 1
    dither p p' = [p + sign * (subStep n 0 : Nat), p + sign * (subStep n 0 + subStep n 1 : Nat),
      p + sign * (subStep n 0 + subStep n 1 + subStep n 2 : Nat),
      p + sign * (subStep n 0 + subStep n 1 + subStep n 2 + subStep n 3 : Nat)] := by
  simp only [dither, subStep, sub_neg, Nat.cast_ite, Nat.cast_add, Nat.cast_one]

/-- Counted from p toward p', the whole increment ends at p'. -/
theorem sign_mul_increment (p p' : Int) : p + (if p' < p then -1 else 1) * ((p' - p).natAbs : Int) = p' := by
  split <;> omega

/-- Counted from p toward p', no more than the increment stays between the two. -/
theorem between_of_le_increment {p p' : Int} {k : Nat} (h : k ≤ (p' - p).natAbs) {x : Int}
    (hx : x = p + (if p' < p then -1 else 1) * (k : Int)) :
    (p ≤ p' → p ≤ x ∧ x ≤ p') ∧ (p' ≤ p → p' ≤ x ∧ x ≤ p) := by
  split at hx <;> omega

/-! ## The stop ramp (R44 to R46) -/

/-- A moved axis begins a stop with the velocity of its last field. -/
theorem formStop_vel {limits : PerAxis Limits} {m : Move} {a : Axis} (cause : StopCause)
    (moved : m.moved.get a = true) : (formStop limits m cause).vel.get a = stopVelocity m a := by
  rw [formStop, PerAxis_get_ofFn, if_pos moved]

theorem formStop_base {limits : PerAxis Limits} {m : Move} {a : Axis} (cause : StopCause)
    (moved : m.moved.get a = true) : (formStop limits m cause).base.get a = profilePos m a m.field := by
  rw [formStop, PerAxis_get_ofFn, if_pos moved]

/-- The ramp is long enough for every moved axis to stop within its rate. -/
theorem ceilDiv_le_formStop_rs {limits : PerAxis Limits} {m : Move} {a : Axis} (cause : StopCause)
    (moved : m.moved.get a = true) :
    ceilDiv (stopVelocity m a).natAbs (limits.get a).astop ≤ (formStop limits m cause).rs :=
  le_listMax (List.mem_map.2 ⟨a, List.mem_filter.2 ⟨mem_allAxes a, moved⟩, rfl⟩)

/-- A ramp that has a step is as long as the one of its moved axes that needs most. -/
theorem formStop_rs_attained {limits : PerAxis Limits} {m : Move} {cause : StopCause}
    (h : (formStop limits m cause).rs ≠ 0) : ∃ b, m.moved.get b = true
      ∧ (formStop limits m cause).rs = ceilDiv (stopVelocity m b).natAbs (limits.get b).astop := by
  obtain ⟨b, among, length⟩ := List.mem_map.1 (listMax_mem h)
  exact ⟨b, (List.mem_filter.1 among).2, length.symm⟩

theorem stopPos_zero (l : Limits) (st : Stop) (a : Axis) : stopPos l st a 0 = st.base.get a := rfl

theorem stopPos_of_pos (l : Limits) (st : Stop) (a : Axis) {j : Nat} (h : 0 < j) :
    stopPos l st a j = clampPos l.minPos l.maxPos
      (st.base.get a + profileRound (st.vel.get a * j * (2 * (st.rs : Int) - j)) (2 * st.rs)) := if_neg h.ne'

/-- The last step of a ramp is at half its velocity times its length, rounded and clamped (R46). -/
theorem stopPos_rs (l : Limits) (st : Stop) (a : Axis) (h : 0 < st.rs) : stopPos l st a st.rs
    = clampPos l.minPos l.maxPos (st.base.get a + profileRound (st.vel.get a * st.rs) 2) := by
  rw [stopPos_of_pos l st a h, show (2 : Int) * st.rs - st.rs = st.rs by omega, profileRound_mul_mul_right _ 2 h]

/-- An axis with no velocity inside its travel holds its base. -/
theorem stopPos_still {l : Limits} {st : Stop} {a : Axis} (rs : 0 < st.rs) (vel : st.vel.get a = 0)
    (least : l.minPos ≤ st.base.get a) (most : st.base.get a ≤ l.maxPos) (j : Nat) :
    stopPos l st a j = st.base.get a := by
  obtain rfl | step := j.eq_zero_or_pos
  · rfl
  · rw [stopPos_of_pos l st a step, vel, Int.zero_mul, Int.zero_mul, profileRound_zero (Nat.mul_pos two_pos rs),
      Int.add_zero, clampPos_of_mem least most]

/-! ## The jog step (R48 to R50) -/

/-- The velocity of a jog step, with the rates of the tally and the clamped demand written out (R48, R49). -/
theorem jogVelocity_eq (l : Limits) (t : Tally) (ja : JogAxis) :
    let v : Int := if t = .onAir then l.vlive else l.vmax
    let acc : Int := if t = .onAir then l.alive else l.amax
    let d : Int := max (-v) (min v ja.demand)
    jogVelocity l t ja = if (d - ja.velocity).natAbs ≤ acc.natAbs then d
      else if ja.velocity < d then ja.velocity + acc else ja.velocity - acc := by
  cases t <;> simp [jogVelocity, rates, clampPos_eq]

section
variable {l : Limits} {p u : Int}

/-- An axis that would cross max from inside is stopped there (R50). -/
theorem jogStops_atMax (inside : p ≤ l.maxPos) (past : l.maxPos < p + u) :
    jogStops l p u = (l.maxPos, 0) := by
  have first : l.maxPos < p + u ∧ p ≤ l.maxPos := ⟨past, inside⟩
  simp only [jogStops, if_pos first]
  exact if_neg (by omega)

/-- An axis that would cross min from inside is stopped there (R50). -/
theorem jogStops_atMin (inside : l.minPos ≤ p) (under : p + u < l.minPos) :
    jogStops l p u = (l.minPos, 0) := by
  have first : ¬(l.maxPos < p + u ∧ p ≤ l.maxPos) := by omega
  have second : p + u < l.minPos ∧ l.minPos ≤ p := ⟨under, inside⟩
  simp only [jogStops, if_neg first, if_pos second]
  exact if_neg (by omega)

/-- A step that crosses neither end from inside is held where it leads an axis outside its travel further out, and taken
otherwise (R50). -/
theorem jogStops_of_not_crossing (upper : p ≤ l.maxPos → p + u ≤ l.maxPos) (lower : l.minPos ≤ p → l.minPos ≤ p + u) :
    jogStops l p u = if (l.maxPos < p ∧ 0 < u) ∨ (p < l.minPos ∧ u < 0) then (p, 0) else (p + u, u) := by
  have first : ¬(l.maxPos < p + u ∧ p ≤ l.maxPos) := by omega
  have second : ¬(p + u < l.minPos ∧ l.minPos ≤ p) := by omega
  simp only [jogStops, if_neg first, if_neg second]

/-- An axis inside its travel stays inside. -/
theorem jogStops_mem (least : l.minPos ≤ p) (most : p ≤ l.maxPos) (u : Int) :
    l.minPos ≤ (jogStops l p u).1 ∧ (jogStops l p u).1 ≤ l.maxPos := by
  have travel := least.trans most
  by_cases past : l.maxPos < p + u
  · rw [jogStops_atMax most past]
    exact ⟨travel, le_rfl⟩
  · by_cases under : p + u < l.minPos
    · rw [jogStops_atMin least under]
      exact ⟨le_rfl, travel⟩
    · rw [jogStops_of_not_crossing (by omega) (by omega), if_neg (by omega)]
      omega

end

/-- A jog step is its limit stops taken with its velocity. -/
theorem jogStep_eq {l : Limits} {t : Tally} {p x u : Int} {ja : JogAxis}
    (h : jogStops l p (jogVelocity l t ja) = (x, u)) : jogStep l t p ja = (x, { ja with velocity := u }) := by
  rw [jogStep, h]

end Sys2Proof.Machine

namespace Sys2Proof.Proofs
open Sys2Proof.Machine

/-- Settles O19: the four sub-steps add up to the increment, so the sub-points go from p to p' and never back. -/
theorem ditherSpreadsIncrementEvenly : Obligations.DitherSpreadsIncrementEvenly := by
  intro p p' q r sign
  have sum := subStep_sum (p' - p).natAbs
  refine ⟨_, _, _, _, dither_eq p p', add_sub_cancel_left .., ?_, ?_, ?_, ?_, fun same => ?_, fun x hx => ?_⟩
  · rw [Int.add_sub_add_left, ← Int.mul_sub, Nat.cast_add, add_sub_cancel_left]
    rfl
  · rw [Int.add_sub_add_left, ← Int.mul_sub, Nat.cast_add _ (subStep _ 2), add_sub_cancel_left]
    rfl
  · rw [Int.add_sub_add_left, ← Int.mul_sub, Nat.cast_add _ (subStep _ 3), add_sub_cancel_left, subStep_last]
  · rw [sum, sign_mul_increment]
  · have hold {k : Nat} (h : k ≤ (p' - p).natAbs) : p + (if p' < p then -1 else 1) * (k : Int) = p := by
      have between := between_of_le_increment h rfl
      omega
    exact ⟨hold (by omega), hold (by omega), hold (by omega)⟩
  · simp only [List.mem_cons, List.not_mem_nil, or_false] at hx
    rcases hx with first | second | third | fourth
    · exact between_of_le_increment (by omega) first
    · exact between_of_le_increment (by omega) second
    · exact between_of_le_increment (by omega) third
    · exact between_of_le_increment (by omega) fourth

/-- Settles O20: the record is read off the move, and each step is a clamp of its rounded position. -/
theorem stopRampStepsStayInTravelAndEndAtHalfVelocity :
    Obligations.StopRampStepsStayInTravelAndEndAtHalfVelocity := by
  refine ⟨fun limits m k a moved => ?_, fun l st a travel rs => ⟨stopPos_zero l st a, fun j pos most => ?_,
    fun j pos => ?_, ?_, fun vel least most => stopPos_still rs vel least most⟩⟩
  · refine ⟨formStop_base k moved, formStop_vel k moved, rfl, rfl, ?_, fun steps => ?_⟩
    · rw [formStop_vel k moved]
      exact ceilDiv_le_formStop_rs k moved
    · obtain ⟨b, movedB, length⟩ := formStop_rs_attained steps
      exact ⟨b, movedB, by rw [formStop_vel k movedB]; exact length⟩
  · have factor : ((j * (2 * st.rs - j) : Nat) : Int) = j * (2 * (st.rs : Int) - j) := by
      rw [Nat.cast_mul, Nat.cast_sub (by omega), Nat.cast_mul]
      rfl
    rw [stopPos_of_pos l st a pos, clampPos_eq travel, factor, Int.mul_assoc]
  · rw [stopPos_of_pos l st a pos]
    exact clampPos_mem travel _
  · rw [stopPos_rs l st a rs, clampPos_eq travel]

/-- Settles O21: the step's velocity is the demand's, and the cases of its limit stops are those of R50. -/
theorem jogStepFollowsDemandAndStopsAtTravel : Obligations.JogStepFollowsDemandAndStopsAtTravel := by
  intro l t p ja travel v acc d u r
  have velocity : jogVelocity l t ja = u := jogVelocity_eq l t ja
  refine ⟨rfl, fun least most => jogStops_mem least most _, fun inside past => jogStep_eq ?_,
    fun inside under => jogStep_eq ?_, fun above out => jogStep_eq ?_, fun below out => jogStep_eq ?_,
    fun upper lower above below => jogStep_eq ?_⟩ <;> rw [velocity]
  · exact jogStops_atMax inside past
  · exact jogStops_atMin inside under
  · rw [jogStops_of_not_crossing (by omega) (by omega), if_pos (.inl ⟨above, out⟩)]
  · rw [jogStops_of_not_crossing (by omega) (by omega), if_pos (.inr ⟨below, out⟩)]
  · rw [jogStops_of_not_crossing upper lower, if_neg (by omega)]

end Sys2Proof.Proofs
end

section
/-! One pass of the walk over a list in two parts, and over one waiter more (R129). -/

namespace Sys2Proof.Machine

/-! ## A pass over a list in two parts (R129) -/

/-- The zones of waiters, oldest waiter first. -/
def reservedBy (ws : List Waiter) : List Zone := ws.flatMap Waiter.zones

theorem mem_reservedBy {ws : List Waiter} {z : Zone} : z ∈ reservedBy ws ↔ ∃ w ∈ ws, z ∈ w.zones := List.mem_flatMap

/-- A pass over older waiters and then younger ones is the pass over the younger with the owners that the older leave and
with the zones of those that stay reserved. -/
theorem walkPass_append (older younger : List Waiter) (owners : Vector (Option Chan) 24) (reserved : List Zone) :
    let r := walkPass owners reserved older
    let q := walkPass r.1 (reserved ++ reservedBy r.2.1) younger
    walkPass owners reserved (older ++ younger) = (q.1, r.2.1 ++ q.2.1, r.2.2 ++ q.2.2) := by
  induction older generalizing owners reserved with
  | nil => simp [walkPass, reservedBy]
  | cons w older ih =>
    dsimp only at ih ⊢
    rw [List.cons_append, walkPass, walkPass]
    split
    · rw [ih]
      rfl
    · rw [ih]
      simp [reservedBy]

/-- The waiters that stay, and those granted, of the older waiters come first among those of all. -/
theorem walkPass_older_first (older younger : List Waiter) (owners : Vector (Option Chan) 24) (reserved : List Zone) :
    (walkPass owners reserved older).2.1 <+: (walkPass owners reserved (older ++ younger)).2.1
      ∧ (walkPass owners reserved older).2.2 <+: (walkPass owners reserved (older ++ younger)).2.2 := by
  rw [walkPass_append]
  exact ⟨⟨_, rfl⟩, ⟨_, rfl⟩⟩

/-- Both the waiters that stay and those granted are in list order (R129). -/
theorem walkPass_sublist (ws : List Waiter) (owners : Vector (Option Chan) 24) (reserved : List Zone) :
    (walkPass owners reserved ws).2.1.Sublist ws ∧ (walkPass owners reserved ws).2.2.Sublist ws := by
  induction ws generalizing owners reserved with
  | nil => exact ⟨.slnil, .slnil⟩
  | cons w ws ih =>
    rw [walkPass]
    split
    · exact ⟨(ih _ _).1.cons w, (ih _ _).2.cons_cons w⟩
    · exact ⟨(ih _ _).1.cons_cons w, (ih _ _).2.cons w⟩

/-- A waiter that is granted owns every zone of its set (R129). -/
theorem walkPass_granted {w : Waiter} {z : Zone} (ws : List Waiter) {owners : Vector (Option Chan) 24}
    {reserved : List Zone} (hw : w ∈ (walkPass owners reserved ws).2.2) (hz : z ∈ w.zones) :
    (walkPass owners reserved ws).1.get z = some w.channel := by
  induction ws generalizing owners reserved with
  | nil => cases hw
  | cons x ws ih =>
    rw [walkPass] at hw ⊢
    split at hw
    · next g =>
      rw [if_pos g]
      rcases List.mem_cons.1 hw with rfl | hw
      · exact walkPass_owned ws (by rw [ownZones_get, if_pos hz])
      · exact ih hw
    · next g =>
      rw [if_neg g]
      exact ih hw

/-! ## The youngest waiter's visit (R129) -/

/-- What a waiter that is granted finds at its visit, with the owners as they stand then and the older waiters that stay:
each zone of its set is its own, or free and in the set of none of them. -/
abbrev FindsOpen (owners : Vector (Option Chan) 24) (older : List Waiter) (w : Waiter) : Prop :=
  ∀ z ∈ w.zones, owners.get z = some w.channel ∨ (owners.get z = none ∧ ∀ x ∈ older, z ∉ x.zones)

theorem zonesGrantable_iff {owners : Vector (Option Chan) 24} {older : List Waiter} {w : Waiter} :
    w.zones.all (zoneGrantable owners (reservedBy older) w.channel) = true ↔ FindsOpen owners older w := by
  simp only [List.all_eq_true, zoneGrantable_iff, mem_reservedBy, not_exists, not_and]

/-- A waiter visited last that finds its zones open takes them and is granted. -/
theorem walkPass_visit_granted {owners : Vector (Option Chan) 24} {ws : List Waiter} {w : Waiter}
    (h : FindsOpen (walkPass owners [] ws).1 (walkPass owners [] ws).2.1 w) : walkPass owners [] (ws ++ [w])
      = (ownZones (walkPass owners [] ws).1 w.channel w.zones, (walkPass owners [] ws).2.1,
        (walkPass owners [] ws).2.2 ++ [w]) := by
  rw [walkPass_append, List.nil_append, walkPass, if_pos (zonesGrantable_iff.2 h)]
  simp [walkPass]

/-- A waiter visited last that finds a zone of its set closed stays, and no zone changes. -/
theorem walkPass_visit_stays {owners : Vector (Option Chan) 24} {ws : List Waiter} {w : Waiter}
    (h : ¬FindsOpen (walkPass owners [] ws).1 (walkPass owners [] ws).2.1 w) : walkPass owners [] (ws ++ [w])
      = ((walkPass owners [] ws).1, (walkPass owners [] ws).2.1 ++ [w], (walkPass owners [] ws).2.2) := by
  rw [walkPass_append, List.nil_append, walkPass, if_neg (mt zonesGrantable_iff.1 h)]
  simp [walkPass]

/-- A waiter that stays, visited again after the older ones that stay, still finds a zone of its set closed (R131). -/
theorem not_findsOpen_of_stays {owners : Vector (Option Chan) 24} {ws older younger : List Waiter} {w : Waiter}
    (h : (walkPass owners [] ws).2.1 = older ++ w :: younger) : ¬FindsOpen (walkPass owners [] ws).1 older w := by
  have again := walkPass_again ws owners []
  rw [h, List.append_cons] at again
  generalize (walkPass owners [] ws).1 = after at again ⊢
  have none_granted {xs ys : List Waiter} (e : (walkPass after [] (xs ++ ys)).2.2 = []) : (walkPass after [] xs).2.2 = [] := by
    rw [walkPass_append] at e
    exact List.append_eq_nil_iff.1 e |>.1
  have visited := none_granted (congrArg (·.2.2) again)
  have first := walkPass_none (none_granted visited)
  intro opens
  rw [walkPass_visit_granted (by rwa [first.1, first.2])] at visited
  exact nomatch (List.append_eq_nil_iff.1 visited).2

/-- A zone that gains an owner is taken at the visit of a waiter that finds it free and in the set of no older waiter that
stays. -/
theorem walkPass_gains {owners : Vector (Option Chan) 24} {z : Zone} {c : Chan} (free : owners.get z = none)
    (ws : List Waiter) : (walkPass owners [] ws).1.get z = some c →
      ∃ older w younger, ws = older ++ w :: younger ∧ w.channel = c ∧ z ∈ w.zones
        ∧ FindsOpen (walkPass owners [] older).1 (walkPass owners [] older).2.1 w
        ∧ ∀ x ∈ (walkPass owners [] older).2.1, z ∉ x.zones := by
  induction ws using List.reverseRecOn with
  | nil => exact fun h => nomatch free.symm.trans h
  | append_singleton ws w ih =>
    intro h
    by_cases before : (walkPass owners [] ws).1.get z = some c
    · obtain ⟨older, x, younger, rfl, found⟩ := ih before
      exact ⟨older, x, younger ++ [w], by simp, found⟩
    · by_cases opens : FindsOpen (walkPass owners [] ws).1 (walkPass owners [] ws).2.1 w
      · rw [walkPass_visit_granted opens, ownZones_get] at h
        split at h
        · next hz =>
          injection h with h
          have new := (opens z hz).resolve_left (h ▸ before)
          exact ⟨ws, w, [], rfl, h, hz, opens, new.2⟩
        · exact absurd h before
      · rw [walkPass_visit_stays opens] at h
        exact absurd h before

end Sys2Proof.Machine

namespace Sys2Proof.Proofs
open Sys2Proof.Machine

/-- Settles O37: a pass in two parts gives the youngest waiter's visit, and a zone gained is traced to the visit that takes it. -/
theorem walkGrantsWholeSetsAndTakesFromNoOwner : Obligations.WalkGrantsWholeSetsAndTakesFromNoOwner := by
  intro owners ws r
  have ordered := walkPass_sublist ws owners []
  have gains {z : Zone} {c : Chan} (free : owners.get z = none) (h : r.1.get z = some c) := walkPass_gains free ws h
  refine ⟨fun z c => walkPass_owned ws, fun w hw z hz => walkPass_granted ws hw hz, fun z c free h => ?_, ordered.1,
    ordered.2, walkPass_length ws owners [], fun older w younger e => ?_, rfl, fun w => ⟨fun opens => ?_, fun closed => ?_⟩,
    fun older younger e => ?_, fun z c free h => ?_⟩
  · obtain ⟨older, w, younger, rfl, hc, hz, opens, -⟩ := gains free h
    refine ⟨w, ?_, hc, hz⟩
    have first := (walkPass_older_first (older ++ [w]) younger owners []).2
    rw [walkPass_visit_granted opens, ← List.append_cons] at first
    exact first.subset (by simp)
  · obtain ⟨z, closed⟩ := Classical.not_forall.1 (not_findsOpen_of_stays e)
    obtain ⟨hz, closed⟩ := Classical.not_imp.1 closed
    refine ⟨z, hz, ?_⟩
    cases owner : r.1.get z with
    | some d => exact .inl ⟨d, fun own => closed (.inl (own ▸ owner)), rfl⟩
    | none => exact .inr (by simpa [show (walkPass owners [] ws).1.get z = none from owner] using closed)
  · rw [walkPass_visit_granted opens]
    exact ⟨fun z => ownZones_get _ _ _ _, rfl, rfl⟩
  · rw [walkPass_visit_stays closed]
    exact ⟨rfl, rfl, rfl⟩
  · subst e
    exact walkPass_older_first older younger owners []
  · obtain ⟨older, w, younger, e, hc, hz, opens, new⟩ := gains free h
    exact ⟨older, w, younger, e, hc, hz, by rw [walkPass_visit_granted opens], new⟩

end Sys2Proof.Proofs
end

section
/-! Every command and every step leaves no waiter that a walk would grant (R130). -/

namespace Sys2Proof.Machine

/-! ## What leaves the floor and every channel's state -/

/-- Whatever leaves the floor and the channels. -/
theorem SameWaits_of_fields {s t : State} (floor : t.floor = s.floor) (channels : t.channels = s.channels) :
    SameWaits s t := ⟨floor, fun c => by rw [State.chan, channels]; rfl⟩

theorem SameWaits_refl (s : State) : SameWaits s s := ⟨rfl, fun _ => rfl⟩

theorem SameWaits_trans {s t u : State} (h : SameWaits s t) (k : SameWaits t u) : SameWaits s u :=
  ⟨k.floor.trans h.floor, fun c => (k.phases c).trans (h.phases c)⟩

/-- A change of a channel that leaves its state. -/
theorem modChan_waits {s : State} {c : Chan} {f : Channel → Channel} (k : (f (s.chan c)).phase = (s.chan c).phase) :
    SameWaits s (s.modChan c f) where
  floor := rfl
  phases := fun d => by
    rw [modChan_chan]
    split
    · next e => rw [k, e]
    · rfl

theorem setPending_waits (q : List Instr) (s : State) : SameWaits s { s with pending := q } := SameWaits_of_fields rfl rfl

theorem setMonitor_waits (m : Monitor) (s : State) : SameWaits s { s with monitor := m } := SameWaits_of_fields rfl rfl

theorem reserve_waits (s : State) : SameWaits s (reserve s) := SameWaits_of_fields rfl rfl

theorem fillAnswer_waits (k : Byte) (r : Reply) (s : State) : SameWaits s (fillAnswer k r s) := SameWaits_of_fields rfl rfl

theorem forwardDown_waits (f : Frame) (s : State) : SameWaits s (forwardDown f s) := SameWaits_of_fields (by simp) (by simp)

theorem forwardUp_waits (f : Frame) (s : State) : SameWaits s (forwardUp f s) := SameWaits_of_fields (by simp) (by simp)

theorem setRx_waits (p : Port) (b : List Byte) (s : State) : SameWaits s (setRx p b s) :=
  SameWaits_of_fields (by simp) (by simp)

theorem arrive_waits (p : Port) (s : State) : SameWaits s (arrive p s) := SameWaits_of_fields (by simp) (by simp)

theorem takeOrPark_waits (c : Chan) (call : ParkedCall) (s : State) : SameWaits s (takeOrPark c call s).1 := by
  unfold takeOrPark
  split
  · exact SameWaits_trans (modChan_waits (f := fun ch => { ch with parked := some call }) rfl) (SameWaits_of_fields rfl rfl)
  · exact SameWaits_trans (t := { s with poolFree := s.poolFree - 1 }) (SameWaits_of_fields rfl rfl) (modChan_waits rfl)

theorem admitQueueNext_waits (c : Chan) (call : ParkedCall) (s : State) : SameWaits s (admitQueueNext c call s).1 := by
  unfold admitQueueNext
  split
  · simp only [replaceParked, unstarted]
    exact SameWaits_trans (notice_waits _ s) (modChan_waits rfl)
  · exact takeOrPark_waits c call s

theorem admitOldest_waits (s : State) : SameWaits s (admitOldest s) := by
  unfold admitOldest
  split
  · exact SameWaits_refl s
  · next c _ _ =>
    split
    · split
      · exact SameWaits_refl s
      · exact SameWaits_trans (t := { s with poolFree := s.poolFree - 1, parkOrder := s.parkOrder.erase c })
          (SameWaits_of_fields rfl rfl) (modChan_waits (f := fun ch => { admitCall _ ch with parked := none }) rfl)
    · exact SameWaits_refl s

/-- A SHOT WRITE changes the shot directory alone. -/
theorem shotWriteBody_waits (p : List Byte) (s : State) : SameWaits s (shotWriteBody p s).1 := by
  unfold shotWriteBody
  split
  · exact SameWaits_refl s
  · split
    · exact SameWaits_refl s
    · dsimp only
      split
      · exact SameWaits_refl s
      · exact SameWaits_of_fields rfl rfl

/-- A SHOT ERASE changes the shot directory alone. -/
theorem shotEraseBody_waits (p : List Byte) (s : State) : SameWaits s (shotEraseBody p s).1 := by
  unfold shotEraseBody
  split
  · split
    · exact SameWaits_refl s
    · dsimp only
      split
      · exact SameWaits_refl s
      · split
        · exact SameWaits_refl s
        · exact SameWaits_of_fields rfl rfl
  · exact SameWaits_refl s

theorem limitWriteBody_waits (p : List Byte) (s : State) : SameWaits s (limitWriteBody p s).1 := by
  unfold limitWriteBody
  split
  · exact SameWaits_refl s
  · split
    · split
      · exact modChan_waits (by unfold storeLimits; split <;> rfl)
      · exact SameWaits_refl s
    · exact SameWaits_refl s

/-! ## Frames at the part's own address (R173) -/

/-- An answered frame whose execution leaves no waiter that a walk would grant. -/
theorem answered_walked {kind : Byte} {body : State → State × Reply} (k : ∀ u, WalkedOk u → WalkedOk (body u).1) {s : State}
    (h : WalkedOk s) : WalkedOk (answered kind body s) := by
  unfold answered
  split
  · exact h
  · exact WalkedOk_sameWaits (k _ (WalkedOk_sameWaits h (reserve_waits s))) (fillAnswer_waits _ _ _)

/-- An answer that only reads the part. -/
theorem answered_reply_walked {kind : Byte} (replyOf : State → Reply) {s : State} (h : WalkedOk s) :
    WalkedOk (answered kind (fun t => (t, replyOf t)) s) := answered_walked (fun _ hu => hu) h

theorem answered_plain_walked {kind : Byte} {p : List Byte} {body : State → State × Reply}
    (k : ∀ u, WalkedOk u → WalkedOk (body u).1) {s : State} (h : WalkedOk s) :
    WalkedOk (answered kind (plain p body) s) :=
  answered_walked (fun u hu => by
    rcases plain_fst p body u with e | e <;> rw [e]
    · exact hu
    · exact k u hu) h

/-- Zones freed outside the end of a move, and the walk that follows (R59, R130, R136). -/
theorem walk_freeZones_walked (zs : List Zone) {s : State} (h : PostsIdle s) : WalkedOk (walk (freeZones zs s)) :=
  walk_walked (PostsIdle_of_phases h fun d => by rw [freeZones_chan])

theorem storeCamera_walked (c : Chan) (r : CameraConfig) {s : State} (h : WalkedOk s) : WalkedOk (storeCamera c r s) := by
  unfold storeCamera
  split
  · have emptied := WalkedOk_sameWaits (WalkedOk_sameWaits h (flushQueue_waits c s)) (displaceParked_waits c _)
    exact WalkedOk_modChan (walk_freeZones_walked _ emptied.1) (by simp [vacate])
  · exact WalkedOk_same h rfl
  · exact WalkedOk_modChan h (by simp [mapChannel])
  · exact WalkedOk_same h (by unfold rewriteChannel; split <;> rfl)

theorem cameraWriteBody_walked (p : List Byte) {s : State} (h : WalkedOk s) : WalkedOk (cameraWriteBody p s).1 := by
  unfold cameraWriteBody
  split
  · exact h
  · split
    · exact h
    · split
      · exact h
      · split
        · exact h
        · split
          · exact h
          · split
            · exact WalkedOk_same (f := fun ch => { ch with config := { ch.config with queueLimit := 0 } }) h rfl
            · exact storeCamera_walked _ _ h

theorem zoneReleaseBody_walked (p : List Byte) {s : State} (h : WalkedOk s) : WalkedOk (zoneReleaseBody p s).1 := by
  unfold zoneReleaseBody
  split
  · split
    · exact h
    · split
      · exact walk_freeZones_walked _ h.1
      · exact h
  · exact h

/-- A RESET frame leaves no channel in ZONE_WAIT (R78). -/
theorem resetChannel_phase (x : Channel) : (resetChannel x).phase = .idle ∨ (resetChannel x).phase = .vacant := by
  unfold resetChannel
  split
  · exact .inl rfl
  · next unmapped => exact .inr (by simpa [mapped] using unmapped)

/-- A RESET frame empties the floor (R193). -/
theorem resetPart_walked (propagate : Bool) {s : State} (h : PostsIdle s) : WalkedOk (resetPart propagate s) := by
  have channels : PostsIdle (allChans.foldl (fun s c => s.modChan c resetChannel) s) :=
    foldl_gives (fun s c => s.modChan c resetChannel) (fun t c k => PostsIdle_modChan k fun m e => by
      rcases resetChannel_phase (t.chan c) with phase | phase <;> exact nomatch phase.symm.trans e) _ s h
  unfold resetPart
  dsimp only
  generalize allChans.foldl (fun s c => s.modChan c resetChannel) s = t at channels
  exact ⟨PostsIdle_of_phases channels fun _ => rfl, rfl⟩

theorem resetBody_walked (p : List Byte) {s : State} (h : WalkedOk s) : WalkedOk (resetBody p s).1 := by
  unfold resetBody
  split
  · split
    · exact resetPart_walked _ h.1
    · split
      · exact resetPart_walked _ h.1
      · exact h
  · exact h

theorem partFrame_walked (k : PartKind) (f : Frame) {s : State} (h : WalkedOk s) : WalkedOk (partFrame k f s) := by
  cases k with
  | tally => exact tallyFrame_walked _ h
  | shotWrite => exact answered_walked (fun u hu => WalkedOk_sameWaits hu (shotWriteBody_waits _ u)) h
  | shotErase => exact answered_walked (fun u hu => WalkedOk_sameWaits hu (shotEraseBody_waits _ u)) h
  | limitWrite => exact answered_walked (fun u hu => WalkedOk_sameWaits hu (limitWriteBody_waits _ u)) h
  | cameraWrite => exact answered_walked (fun u hu => cameraWriteBody_walked _ hu) h
  | zoneRelease => exact answered_walked (fun u hu => zoneReleaseBody_walked _ hu) h
  | reset => exact answered_walked (fun u hu => resetBody_walked _ hu) h
  | shotRead | verify | limitRead | cameraRead => exact answered_reply_walked _ h
  | zoneRead => exact answered_plain_walked (fun _ hu => hu) h
  | partQuery => exact answered_plain_walked (fun u hu => WalkedOk_sameWaits hu (SameWaits_of_fields rfl rfl)) h

/-! ## Camera commands (R173) -/

theorem callBody_walked (c : Chan) (p : List Byte) {s : State} (h : WalkedOk s) : WalkedOk (callBody c p s).1 := by
  unfold callBody
  split
  · exact h
  · split
    · exact h
    · dsimp only
      split
      · have emptied := SameWaits_trans (displaceParked_waits c s) (flushQueue_waits c _)
        exact cutMove_walked c (WalkedOk_sameWaits h (SameWaits_trans emptied (takeOrPark_waits c _ _)))
      · exact WalkedOk_sameWaits h (admitQueueNext_waits c _ s)

theorem jogFrame_walked (c : Chan) (p : List Byte) {s : State} (h : WalkedOk s) : WalkedOk (jogFrame c p s) := by
  unfold jogFrame
  split
  · exact h
  · next demands _ =>
    rcases takeJog_phase demands (s.chan c) with phase | ⟨j, phase⟩
    · exact WalkedOk_same h phase
    · exact WalkedOk_modChan h fun m e => nomatch phase.symm.trans e

theorem resumeBody_walked (c : Chan) {s : State} (h : WalkedOk s) : WalkedOk (resumeBody c s).1 := by
  unfold resumeBody
  split
  · exact WalkedOk_modChan h (by simp)
  · exact h

theorem recoverBody_walked (c : Chan) {s : State} (h : WalkedOk s) : WalkedOk (recoverBody c s).1 := by
  unfold recoverBody
  split
  · exact WalkedOk_modChan h (by simp [recoverChannel])
  · exact h

theorem cameraFrame_walked (c : Chan) (k : CameraKind) (f : Frame) {s : State} (h : WalkedOk s) :
    WalkedOk (cameraFrame c k f s) := by
  cases k with
  | call => exact answered_walked (fun u hu => callBody_walked c _ hu) h
  | jog => exact jogFrame_walked c _ h
  | halt => exact answered_plain_walked (fun u hu => haltChannel_gives WalkGives_walk walk_posts c hu) h
  | resume => exact answered_plain_walked (fun u hu => resumeBody_walked c hu) h
  | flush =>
    exact answered_plain_walked (fun u hu => WalkedOk_sameWaits hu
      (SameWaits_trans (flushQueue_waits c u) (displaceParked_waits c _))) h
  | recover => exact answered_plain_walked (fun u hu => recoverBody_walked c hu) h
  | query => exact answered_plain_walked (fun _ hu => hu) h

/-! ## Reception (R171 to R175) -/

theorem controlFrame_walked (f : Frame) {s : State} (h : WalkedOk s) : WalkedOk (controlFrame f s) := by
  have forwarded {u : State} (hu : WalkedOk u) := WalkedOk_sameWaits hu (forwardDown_waits f u)
  unfold controlFrame
  split
  · unfold ownFrame
    split
    · exact partFrame_walked _ f h
    · split
      · exact forwarded h
      · exact answered_reply_walked _ h
  · split
    · split
      · exact cameraFrame_walked _ _ f h
      · exact forwarded h
    · unfold strayFrame
      split
      · exact forwarded (haltAll_walked h.1)
      · exact forwarded h

theorem takeAlarm_walked (c : Chan) (code : Byte) {s : State} (h : WalkedOk s) : WalkedOk (takeAlarm c code s) := by
  unfold takeAlarm
  split
  · exact h
  · exact enterFault_walked c _ h

theorem takeManualRequest_walked (c : Chan) {s : State} (h : WalkedOk s) : WalkedOk (takeManualRequest c s) := by
  have flagged : WalkedOk (s.modChan c fun ch => { ch with manualPending := true }) := WalkedOk_same h rfl
  cases phase : (s.chan c).phase <;> simp only [takeManualRequest, phase]
  case idle | held => exact enterManualWait_gives WalkGives_walk c _ h.1
  case zoneWait | moving | stopping | settling | jogging => exact flagged
  case fault => exact WalkedOk_sameWaits h (SameWaits_trans (pushHead_waits _ s) (notice_waits _ _))
  case manualWait | manual | vacant => exact h

theorem takeManualRelease_walked (c : Chan) {s : State} (h : WalkedOk s) : WalkedOk (takeManualRelease c s) := by
  have noticed {u : State} (p : List Byte) (hu : WalkedOk u) := WalkedOk_sameWaits hu (notice_waits p u)
  have rests (r : RestState) : ∀ m, restPhase r ≠ .zoneWait m := by cases r <;> simp [restPhase]
  unfold takeManualRelease
  split
  · refine WalkGives_toPhase WalkGives_walk c (noticed _ (walk_walked ?_)) (rests _)
    exact PostsIdle_of_phases h.1 fun d => by rw [dropWaiter_chan]
  · refine WalkGives_toPhase WalkGives_walk c (noticed _ (WalkedOk_same h ?_)) (rests _)
    split <;> rfl
  · exact h

theorem headChannelFrame_walked (c : Chan) (k : HeadKind) (f : Frame) {s : State} (h : WalkedOk s) :
    WalkedOk (headChannelFrame c k f s) := by
  have forwarded {u : State} (hu : WalkedOk u) := WalkedOk_sameWaits hu (forwardUp_waits f u)
  unfold headChannelFrame
  split
  · split
    · exact forwarded (takePosition_walked c _ h)
    · exact forwarded h
  · split
    · exact forwarded (takeAlarm_walked c _ h)
    · exact forwarded h
  · split
    · exact takeManualRequest_walked c h
    · exact h
  · split
    · exact takeManualRelease_walked c h
    · exact h

theorem headFrame_walked (f : Frame) {s : State} (h : WalkedOk s) : WalkedOk (headFrame f s) := by
  have forwarded := WalkedOk_sameWaits h (forwardUp_waits f s)
  unfold headFrame
  split
  · exact forwarded
  · split
    · exact headChannelFrame_walked _ _ f h
    · split
      · exact forwarded
      · exact forwarded
      · exact h
      · exact h

/-- Every frame received at a port leaves no waiter that a walk would grant (R171). -/
theorem receive_walked (p : Port) (f : Frame) {s : State} (h : WalkedOk s) : WalkedOk (receive p f s) := by
  have arrived := WalkedOk_sameWaits h (arrive_waits p s)
  unfold receive
  split
  · exact h
  · split
    · cases p
      · exact controlFrame_walked f arrived
      · exact headFrame_walked f arrived
    · exact arrived

theorem takeBytes_walked (p : Port) (bytes : List Byte) {s : State} (h : WalkedOk s) : WalkedOk (takeBytes p bytes s) := by
  unfold takeBytes
  split
  · exact h
  · exact WalkedOk_sameWaits (foldl_gives _ (fun t f k => receive_walked p f k) _ s h)
      (setRx_waits p _ _)

/-! ## The Reference Monitor (R159 to R167) -/

theorem takeHead_waits (s : State) : SameWaits s (takeHead s) := by
  unfold takeHead
  split
  · exact SameWaits_of_fields rfl rfl
  · exact SameWaits_refl s

theorem takeDue_walked (t : Taker) {s : State} (h : WalkedOk s) : WalkedOk (takeDue s t) := by
  cases t with
  | headPort => exact WalkedOk_sameWaits h (takeHead_waits s)
  | channel c => exact takeField_walked c h

theorem finishField_walked {s : State} (h : WalkedOk s) : WalkedOk (finishField s) :=
  foldl_gives _ (fun _ t k => takeDue_walked t k) _ s h

theorem fieldEvent_walked (takers : List Taker) {s : State} (h : WalkedOk s) : WalkedOk (fieldEvent takers s) := by
  have delivered : WalkedOk (deliver s) := by
    unfold deliver
    exact foldl_gives _ (fun _ _ k => WalkedOk_same k rfl) _ _ (WalkedOk_sameWaits h (SameWaits_of_fields rfl rfl))
  exact foldl_gives _ (fun _ t k => takeDue_walked t k) takers _ delivered

theorem changeRef_waits (r : RefState) (s : State) : SameWaits s (changeRef r s) :=
  SameWaits_trans (setMonitor_waits { s.monitor with state := r } s) (notice_waits _ _)

theorem startWindow_waits (t : Nat) (s : State) : SameWaits s (startWindow t s) := by
  have started := setMonitor_waits { s.monitor with window := some ⟨t, 0⟩ } s
  unfold startWindow
  dsimp only
  split
  · exact SameWaits_trans started (changeRef_waits _ _)
  · exact started

theorem windowPulse_waits (t : Nat) (w : Window) (s : State) : SameWaits s (windowPulse t w s) := by
  unfold windowPulse
  split
  · exact setMonitor_waits _ s
  · split
    · exact SameWaits_trans (setMonitor_waits _ s) (changeRef_waits _ _)
    · exact setMonitor_waits _ s

theorem endWindow_waits (w : Window) (s : State) : SameWaits s (endWindow w s) := by
  have ended := setMonitor_waits { s.monitor with now := windowEnd w, window := none } s
  unfold endWindow
  dsimp only
  split
  · exact SameWaits_trans ended (changeRef_waits _ _)
  · exact ended

theorem pulse_walked (t : Nat) (takers : List Taker) {s : State} (h : WalkedOk s) : WalkedOk (pulse t takers s) := by
  have advanced := WalkedOk_sameWaits h (setMonitor_waits { s.monitor with now := t } s)
  unfold pulse
  dsimp only
  split
  · split
    · exact fieldEvent_walked takers (WalkedOk_sameWaits (finishField_walked advanced) (setMonitor_waits _ _))
    · exact advanced
  · split
    · exact WalkedOk_sameWaits advanced (startWindow_waits t _)
    · exact WalkedOk_sameWaits advanced (windowPulse_waits t _ _)

theorem pulseCommand_walked (t : Nat) (takers : List Taker) {s : State} (h : WalkedOk s) :
    WalkedOk (pulseCommand t takers s) := by
  unfold pulseCommand
  split
  · exact pulse_walked t takers h
  · exact h

theorem windowLimitCommand_walked {s : State} (h : WalkedOk s) : WalkedOk (windowLimitCommand s) := by
  unfold windowLimitCommand
  split
  · split
    · exact WalkedOk_sameWaits h (endWindow_waits _ s)
    · exact h
  · exact h

theorem expiryCommand_walked (takers : List Taker) {s : State} (h : WalkedOk s) : WalkedOk (expiryCommand takers s) := by
  have recorded : WalkedOk (recordField s.monitor.flywheelAt s.monitor.heldPeriod (finishField s)) :=
    WalkedOk_sameWaits (finishField_walked h) (setMonitor_waits _ _)
  unfold expiryCommand
  split
  · unfold expireFlywheel
    dsimp only
    split
    · exact fieldEvent_walked takers (WalkedOk_sameWaits recorded (changeRef_waits _ _))
    · exact fieldEvent_walked takers recorded
  · exact h

theorem idle_walked {s : State} (h : WalkedOk s) : WalkedOk (idle s) := by
  unfold idle
  split
  · exact h
  · split
    · exact WalkedOk_sameWaits h (takeHead_waits s)
    · split
      · exact takeField_walked _ h
      · exact h

/-! ## The transmitters and the reset (R179, R180, R192) -/

theorem headBoundary_waits (s : State) : SameWaits s (headBoundary s) := by
  unfold headBoundary
  split
  · exact SameWaits_of_fields rfl rfl
  · exact SameWaits_refl s

theorem controlBoundary_waits (s : State) : SameWaits s (controlBoundary s) := by
  unfold controlBoundary
  split
  · split
    · unfold sendSecond
      split <;> exact SameWaits_of_fields rfl rfl
    · split
      · exact SameWaits_of_fields rfl rfl
      · unfold sendEntry
        split
        · exact SameWaits_of_fields rfl rfl
        · split <;> exact SameWaits_of_fields rfl rfl
  · exact SameWaits_refl s

theorem assertReset_waits (s : State) : SameWaits s (assertReset s) := SameWaits_of_fields rfl rfl

/-- After the release of the reset no zone is owned and no channel waits (R192). -/
theorem powerOn_walked (straps : BitVec 5) : WalkedOk (State.powerOn straps) where
  posts := fun c m e => by
    rw [powerOn_chan] at e
    cases e
  walked := rfl

/-! ## Every command and every step -/

theorem fieldStep_walked (comesTo : Channel → Bool) (c : Chan) {s : State} (h : WalkedOk s) :
    WalkedOk (fieldStep comesTo c s) := by
  unfold fieldStep
  split
  · exact takeField_walked c h
  · exact h

theorem parkedCallAdmission_walked {s : State} (h : WalkedOk s) :
    WalkedOk (if s.resetHeld then s else admitOldest s) := by
  split
  · exact h
  · exact WalkedOk_sameWaits h (admitOldest_waits s)

/-- A command whose outcome is a state with no waiter that a walk would grant. -/
theorem WalkedOk_of_next {s t : State} (h : WalkedOk s) (e : (.next s : Out) = .next t) : WalkedOk t := by
  cases e
  exact h

/-- Every command leaves no waiter that a walk would grant; those not named below are the frame commands of the Control
Port. -/
theorem exec_walked {s t : State} (h : WalkedOk s) (i : Instr) (e : exec i s = .next t) : WalkedOk t := by
  cases i with
  | powerOnReset straps =>
    exact WalkedOk_of_next (WalkedOk_sameWaits (powerOn_walked straps) (setPending_waits s.pending _)) e
  | resetPinAssert => exact WalkedOk_of_next (WalkedOk_sameWaits h (assertReset_waits s)) e
  | candidateDiscard p bytes => exact WalkedOk_of_next (takeBytes_walked p bytes h) e
  | badKindFrame f | forwardDownstream f => exact WalkedOk_of_next (receive_walked .control f h) e
  | forwardUpstream f => exact WalkedOk_of_next (receive_walked .head f h) e
  | position m | alarm m | manualRequest m | manualRelease m => exact WalkedOk_of_next (receive_walked .head _ h) e
  | referencePulse time takers => exact WalkedOk_of_next (pulseCommand_walked time takers h) e
  | windowElapsedLimit => exact WalkedOk_of_next (windowLimitCommand_walked h) e
  | flywheelTimerExpiry takers => exact WalkedOk_of_next (expiryCommand_walked takers h) e
  | profileComplete c | stopRampComplete c | jogDeadman c | jogEnd c | zoneTimeout c | settleTimeout c | reportLoss c
  | manualWaitTimeout c => exact WalkedOk_of_next (fieldStep_walked _ c h) e
  | zoneGrant c | manualGrant c => exact WalkedOk_of_next (by rwa [grantStep_of_walked _ c h.2]) e
  | parkedCallAdmission => exact WalkedOk_of_next (parkedCallAdmission_walked h) e
  | headPortFrameBoundary => exact WalkedOk_of_next (WalkedOk_sameWaits h (headBoundary_waits s)) e
  | controlPortFrameBoundary => exact WalkedOk_of_next (WalkedOk_sameWaits h (controlBoundary_waits s)) e
  | _ m => exact WalkedOk_of_next (receive_walked .control _ h) e

end Sys2Proof.Machine

namespace Sys2Proof.Proofs
open Sys2Proof.Machine

/-- Settles O54: the step runs the front command on the rest of the queue, or idles, and either completes every walk it
calls for. -/
theorem stepLeavesNoGrantableWaiter : Obligations.StepLeavesNoGrantableWaiter := by
  intro s t h e
  unfold step at e
  split at e
  · exact WalkedOk_of_next (idle_walked h) e
  · exact exec_walked (WalkedOk_sameWaits h (setPending_waits _ s)) _ e

end Sys2Proof.Proofs
end

section
/-! The Zone Arbiter's management frames: what ZONE RELEASE frees and what ZONE READ answers (R136, R137, R184). -/

namespace Sys2Proof.Machine

/-! ## A channel with no zone and no waiter

A walk gives zones to channels that have a waiter, and its handovers add a waiter of such a channel alone. -/

/-- The channel owns no zone and has no waiter on the list. -/
structure Unclaimed (c : Chan) (s : State) : Prop where
  owners : ∀ z, s.floor.owners.get z ≠ some c
  waiters : ∀ w ∈ s.floor.waiters, w.channel ≠ c

theorem Unclaimed.of_floor {c : Chan} {s t : State} (h : Unclaimed c s) (k : t.floor = s.floor) : Unclaimed c t := by
  constructor <;> rw [k]
  · exact h.owners
  · exact h.waiters

theorem Unclaimed.freeZones {c : Chan} {s : State} (h : Unclaimed c s) (zs : List Zone) : Unclaimed c (freeZones zs s) where
  owners := fun z => by
    rw [freeZones_get]
    split
    · exact nofun
    · exact h.owners z
  waiters := h.waiters

section
variable {walk : State → State} {c d : Chan} (hw : ∀ s, Unclaimed c s → Unclaimed c (walk s)) (hd : d ≠ c)
include hw

theorem Unclaimed.settleFloor {s : State} (h : Unclaimed c s) (keep : Option (List Zone)) :
    Unclaimed c (settleFloor walk d keep s) := by
  unfold Machine.settleFloor
  split
  · exact h
  · split
    · exact h
    · exact hw _ (h.freeZones _)

include hd

theorem Unclaimed.enterManualWait {s : State} (h : Unclaimed c s) (r : RestState) :
    Unclaimed c (enterManualWait walk d r s) := by
  refine hw _ ⟨h.owners, fun w mem => ?_⟩
  rw [addWaiter_waiters, List.mem_append, List.mem_singleton] at mem
  rcases mem with mem | rfl
  · exact h.waiters w mem
  · exact hd

theorem Unclaimed.enterRest {s : State} (h : Unclaimed c s) (r : RestState) : Unclaimed c (enterRest walk d r s) := by
  have k := h.of_floor (modChan_floor s d (toPhase (restPhase r)))
  simp only [Machine.enterRest]
  split
  · exact k.enterManualWait hw hd _
  · exact k

theorem Unclaimed.moveEnd {s : State} (h : Unclaimed c s) (e : MoveEnd) (x : MoveExit) : Unclaimed c (moveEnd walk d e x s) := by
  have k := (h.of_floor (moveEnd_books d e s).floor).settleFloor hw (d := d) e.keep
  cases x with
  | rest r => exact k.enterRest hw hd r
  | fault => exact k.of_floor rfl

end

/-- A grant to another channel. -/
theorem Unclaimed.takeGrant {walk : State → State} {c : Chan} (hw : ∀ s, Unclaimed c s → Unclaimed c (walk s)) {w : Waiter}
    (hd : w.channel ≠ c) {s : State} (h : Unclaimed c s) : Unclaimed c (takeGrant walk s w) := by
  unfold Machine.takeGrant
  split
  · split
    · exact h.moveEnd hw hd _ _
    · exact h.of_floor rfl
  · exact h.of_floor (by simp)
  · exact h

/-- A pass gives no zone to a channel with no waiter. -/
theorem Unclaimed.walkPass_owners {c : Chan} {s : State} (h : Unclaimed c s) (z : Zone) :
    (walkPass s.floor.owners [] s.floor.waiters).1.get z ≠ some c := by
  intro own
  cases before : s.floor.owners.get z with
  | some d => exact h.owners z (before.trans ((walkPass_owned _ before).symm.trans own))
  | none =>
    obtain ⟨older, w, younger, e, hc, -⟩ := walkPass_gains before _ own
    exact h.waiters w (by simp [e]) hc

theorem Unclaimed.walkN {c : Chan} (n : Nat) : ∀ s, Unclaimed c s → Unclaimed c (walkN n s) := by
  induction n with
  | zero => exact fun _ h => h
  | succ n ih =>
    intro s h
    have ordered := walkPass_sublist s.floor.waiters s.floor.owners []
    have passed : Unclaimed c { s with floor := ⟨(walkPass s.floor.owners [] s.floor.waiters).1,
        (walkPass s.floor.owners [] s.floor.waiters).2.1⟩ } :=
      ⟨h.walkPass_owners, fun w hw => h.waiters w (ordered.1.subset hw)⟩
    exact List.foldlRecOn (motive := Unclaimed c) _ _ passed fun u hu w hw =>
      hu.takeGrant ih (h.waiters w (ordered.2.subset hw))

/-- A walk gives no zone to a channel with no waiter (R129). -/
theorem Unclaimed.walk {c : Chan} {s : State} (h : Unclaimed c s) : Unclaimed c (walk s) := Unclaimed.walkN _ s h

/-! ## ZONE RELEASE (R136) -/

theorem exec_zoneRelease {s : State} {m : Msg} (h : AtPart s m (partCode .zoneRelease)) :
    exec (.zoneRelease m) s = .next (answered 0x2A (zoneReleaseBody m.payload) (afterControl s)) :=
  congrArg Host.Outcome.next (receive_part h.1 h.2.1)

theorem writable_iff (p : Phase) : writable p = true ↔ p = .vacant ∨ p = .idle ∨ p = .held ∨ p = .fault := by
  cases p <;> simp [writable]

theorem mem_zonesOf (s : State) (c : Chan) (z : Zone) : z ∈ s.zonesOf c ↔ s.floor.owners.get z = some c := by
  simp [State.zonesOf, mem_allZones]

/-- The zones that a channel owned are FREE, with no walk yet. -/
def released (c : Chan) (s : State) : State := freeZones (s.zonesOf c) s

theorem zoneReleaseBody_badParam {b : Byte} (s : State) (h : chanOf b = none) :
    zoneReleaseBody [b] s = (s, refuse .badParam) := by simp only [zoneReleaseBody, h]

theorem zoneReleaseBody_busy {b : Byte} {c : Chan} {s : State} (hc : chanOf b = some c)
    (moves : writable (s.chan c).phase = false) : zoneReleaseBody [b] s = (s, refuse .busy) := by
  simp only [zoneReleaseBody, hc, moves, Bool.false_eq_true, if_false]

theorem zoneReleaseBody_resting {b : Byte} {c : Chan} {s : State} (hc : chanOf b = some c)
    (rests : writable (s.chan c).phase = true) : zoneReleaseBody [b] s
      = (walk (released c s), reply .ok [b, BitVec.ofNat 8 (s.zonesOf c).length]) := by
  simp only [zoneReleaseBody, hc, rests, if_true]
  rfl

theorem released_get (c : Chan) (s : State) (z : Zone) : (released c s).floor.owners.get z
    = if s.floor.owners.get z = some c then none else s.floor.owners.get z := by
  simp only [released, freeZones_get, mem_zonesOf]

theorem released_unclaimed {c : Chan} {s : State} (h : ∀ w ∈ s.floor.waiters, w.channel ≠ c) :
    Unclaimed c (released c s) where
  owners := fun z => by
    rw [released_get]
    split
    · exact nofun
    · next other => exact other
  waiters := h

/-- With no waiter on the list a ZONE RELEASE changes owners alone. -/
theorem walk_released {c : Chan} {s : State} (h : s.floor.waiters = []) : walk (released c s) = released c s := by
  refine walk_of_walked ?_
  have waiters : (released c s).floor.waiters = [] := h
  rw [Walked, waiters]
  rfl

/-- A ZONE RELEASE at a resting channel: its zones are freed, the walk runs, and their number is answered. -/
theorem exec_zoneRelease_resting {s : State} {m : Msg} {b : Byte} {c : Chan} (h : AtPart s m (partCode .zoneRelease))
    (hm : m.payload = [b]) (hc : chanOf b = some c) (rests : writable (s.chan c).phase = true) :
    exec (.zoneRelease m) s = .next (fillAnswer 0x2A (reply .ok [b, BitVec.ofNat 8 (s.zonesOf c).length])
      (walk (released c (reserve (afterControl s))))) := by
  rw [exec_zoneRelease h, hm, answered_free (by simpa using h.2.2),
    zoneReleaseBody_resting hc (by simpa using rests)]
  rfl

/-- An answer depends on the part through its address alone (R188). -/
theorem answerEntry_congr {s t : State} (h : t.partAddress = s.partAddress) (kind : Byte) (r : Reply) :
    answerEntry t kind r = answerEntry s kind r := by simp only [answerEntry, answerFrame, h]

/-- A resting channel does not wait. -/
theorem not_waiting_of_writable {p : Phase} (h : writable p = true) :
    (∀ m, p ≠ .zoneWait m) ∧ ∀ r n, p ≠ .manualWait r n := by
  rcases (writable_iff p).1 h with rfl | rfl | rfl | rfl <;> simp

/-! ## ZONE READ (R137, R184) -/

theorem exec_zoneRead {s : State} {m : Msg} (h : AtPart s m (partCode .zoneRead)) (hm : m.payload = []) :
    exec (.zoneRead m) s = .next (withAnswer s 0x29 (zoneReadReply s)) := by
  have taken : exec (.zoneRead m) s
      = .next (answered 0x29 (plain m.payload fun t => (t, zoneReadReply t)) (afterControl s)) :=
    congrArg Host.Outcome.next (receive_part h.1 h.2.1)
  rw [taken, answered_same h.2.2]
  rw [hm, plain, if_pos rfl]
  rfl

/-- The owner bytes of all zones (R184). -/
def ownerBytes (s : State) : List Byte := allZones.map fun z => ownerByte (s.floor.owners.get z)

theorem zoneReadReply_one {s : State} (h : s.floor.waiters.length ≤ 11) : zoneReadReply s
    = reply .ok (0 :: 1 :: ownerBytes s ++ BitVec.ofNat 8 s.floor.waiters.length
      :: s.floor.waiters.flatMap (waiterBytes s)) := by
  simp [zoneReadReply, Config.zoneReadPartWaiters, h, List.take_of_length_le h, reply, be8, ownerBytes]

theorem zoneReadReply_two {s : State} (h : 11 < s.floor.waiters.length) : zoneReadReply s
    = { result := .ok
        data := 0 :: 2 :: ownerBytes s ++ BitVec.ofNat 8 s.floor.waiters.length
          :: (s.floor.waiters.take 11).flatMap (waiterBytes s)
        second := some (1 :: 2 :: (s.floor.waiters.drop 11).flatMap (waiterBytes s)) } := by
  simp [zoneReadReply, Config.zoneReadPartWaiters, Nat.not_le.2 h, be8, ownerBytes]

/-! ## A waiter's six bytes (R181, R184) -/

/-- The first byte is the channel, with bit 7 for MANUAL. -/
theorem waiterFirst_toNat (c : Chan) (k : WaiterKind) : (chanByte c ||| waiterKindBits k).toNat
    = c.val + (match k with | .move => 0 | .manual => 128) := by
  cases k <;> revert c <;> decide

/-- The number whose binary digits are a set of zones. -/
def zoneSetNat (zs : List Zone) : Nat := (allZones.map fun z => if z ∈ zs then 2 ^ z.val else 0).sum

theorem zoneSetNat_eq (zs : List Zone) :
    zoneSetNat zs = (((allZones.filter (· ∈ zs)).map Fin.val).map (2 ^ ·)).sum := by
  rw [zoneSetNat, List.sum_map_ite]
  simp [Function.comp_def]

/-- Bit n of a set's number stands for zone n. -/
theorem testBit_zoneSetNat (zs : List Zone) (z : Zone) : (zoneSetNat zs).testBit z.val = true ↔ z ∈ zs := by
  have ascending : ((allZones.filter (· ∈ zs)).map Fin.val).SortedLT := by
    have all : allZones.Pairwise (· < ·) := by decide
    exact ((all.filter _).map Fin.val fun _ _ => id).sortedLT
  rw [← Nat.mem_bitIndices, zoneSetNat_eq, Nat.bitIndices_sum_map_two_pow ascending,
    List.mem_map_of_injective Fin.val_injective]
  simp [mem_allZones]

/-- A set of zones as a 24-bit value (R184). -/
def zoneSetWord (zs : List Zone) : BitVec 24 := BitVec.ofNat 24 (zoneSetNat zs)

theorem zoneSetWord_getLsbD (zs : List Zone) (z : Zone) : (zoneSetWord zs).getLsbD z.val = true ↔ z ∈ zs := by
  rw [zoneSetWord, BitVec.getLsbD_ofNat, decide_eq_true z.isLt, Bool.true_and, testBit_zoneSetNat]

/-- A byte of a 24-bit value. -/
theorem extractLsb'_ofNat_byte (n : Nat) {k : Nat} (h : k + 8 ≤ 24) :
    (BitVec.ofNat 24 n).extractLsb' k 8 = BitVec.ofNat 8 (n / 2 ^ k) := by
  refine BitVec.eq_of_getLsbD_eq fun i hi => ?_
  have inside : k + i < 24 := by omega
  rw [BitVec.getLsbD_extractLsb', BitVec.getLsbD_ofNat, BitVec.getLsbD_ofNat, Nat.testBit_div_two_pow, Nat.add_comm i,
    decide_eq_true inside, Bool.true_and]

theorem zoneSetBytes_eq (zs : List Zone) : zoneSetBytes zs = [(zoneSetWord zs).extractLsb' 16 8,
    (zoneSetWord zs).extractLsb' 8 8, (zoneSetWord zs).extractLsb' 0 8] := by
  simp only [zoneSetWord, extractLsb'_ofNat_byte, Nat.reduceAdd, Nat.reduceLeDiff, Nat.reducePow, Nat.div_one]
  rfl

/-- The wait count shown for a waiter is that of its channel's waiting state (R184). -/
theorem countOf_waiting {p : Phase} {n : Nat}
    (h : (∃ m, p = .zoneWait m ∧ n = m.waitCount) ∨ ∃ r, p = .manualWait r n) : countOf p = some n := by
  rcases h with ⟨m, rfl, rfl⟩ | ⟨r, rfl⟩ <;> rfl

theorem waiterBytes_eq {s : State} {w : Waiter} {n : Nat} (h : countOf (s.chan w.channel).phase = some n) :
    waiterBytes s w = [chanByte w.channel ||| waiterKindBits w.kind, (zoneSetWord w.zones).extractLsb' 16 8,
      (zoneSetWord w.zones).extractLsb' 8 8, (zoneSetWord w.zones).extractLsb' 0 8, BitVec.ofNat 8 (n / 256),
      BitVec.ofNat 8 n] := by
  rw [waiterBytes, zoneSetBytes_eq, h]
  rfl

end Sys2Proof.Machine

namespace Sys2Proof.Proofs
open Sys2Proof.Machine

/-- Settles O38: a ZONE RELEASE is a refusal, or the walk over the floor with the channel's zones freed; a ZONE READ is its
reply in one frame or in two, each waiter shown by its six bytes. -/
theorem zoneReleaseAndZoneReadShowFloor : Obligations.ZoneReleaseAndZoneReadShowFloor := by
  refine ⟨fun s m b h hm => ⟨fun hb => ?_, fun c hc => ?_⟩, fun s m h hm => ⟨fun few => ?_, fun many => ?_⟩,
    fun s w n waits => ?_⟩
  · rw [exec_zoneRelease h, hm, answered_same h.2.2 (zoneReleaseBody_badParam _ (chanOf_eq_none_iff.2 hb))]
  · dsimp only
    rw [← writable_iff, Bool.not_eq_true]
    refine ⟨fun moves => ?_, fun rests none_waits => ?_, fun rests others => ?_, fun rests posts => ?_⟩
    · rw [exec_zoneRelease h, hm, answered_same h.2.2 (zoneReleaseBody_busy hc (by simpa using moves))]
    all_goals rw [exec_zoneRelease_resting h hm hc rests]
    · refine ⟨(released c s).floor.owners, ?_, released_get c s⟩
      rw [walk_released (s := reserve (afterControl s)) none_waits, ← none_waits]
      rfl
    · have freed : Unclaimed c (walk (released c (reserve (afterControl s)))) :=
        (released_unclaimed (s := reserve (afterControl s)) others).walk
      have keeps := walk_keeps (released c (reserve (afterControl s)))
      obtain ⟨not_zone, not_manual⟩ := not_waiting_of_writable rests
      have aside := LeavesUnserved_walk c (released c (reserve (afterControl s))) not_zone not_manual
      refine ⟨_, rfl, freed.owners, ?_, keeps.shots, keeps.monitor, ?_⟩
      · rw [fillAnswer_chan, Aside_phase aside]
        rfl
      · rw [fillAnswer_entries, List.getLast?_concat, answerEntry_congr keeps.partAddress]
        rfl
    · have walked := walk_freeZones_walked (s.zonesOf c) (s := reserve (afterControl s)) posts
      exact ⟨_, rfl, (WalkedOk_sameWaits walked (fillAnswer_waits _ _ _)).walked⟩
  · rw [exec_zoneRead h hm, zoneReadReply_one few]
    rfl
  · rw [exec_zoneRead h hm, zoneReadReply_two many]
    rfl
  · exact ⟨_, _, waiterBytes_eq (countOf_waiting waits), waiterFirst_toNat _ _, zoneSetWord_getLsbD w.zones⟩

end Sys2Proof.Proofs
end

section
/-! What work at channels leaves at a channel, and what a manual request comes to in a walk (R128 to R131, R152). -/

namespace Sys2Proof.Machine

/-! ## One update after another -/

theorem setChan_setChan (s : State) (c : Chan) (x y : Channel) : (s.setChan c x).setChan c y = s.setChan c y := by
  simp [State.setChan]

theorem modChan_modChan (s : State) (c : Chan) (f g : Channel → Channel) :
    (s.modChan c f).modChan c g = s.modChan c fun ch => g (f ch) := by
  rw [State.modChan, modChan_chan_self, State.modChan, setChan_setChan]
  rfl

theorem setChan_modChan (s : State) (c : Chan) (x : Channel) (f : Channel → Channel) :
    (s.setChan c x).modChan c f = s.setChan c (f x) := by
  rw [State.modChan, setChan_chan, if_pos rfl, setChan_setChan]

theorem modChan_congr {s : State} {c : Chan} {f g : Channel → Channel} (h : f (s.chan c) = g (s.chan c)) :
    s.modChan c f = s.modChan c g := by rw [State.modChan, h, State.modChan]

theorem modChan_of_eq {s : State} {c : Chan} {f : Channel → Channel} (h : f (s.chan c) = s.chan c) : s.modChan c f = s := by
  have same : s.channels.set c.val (s.channels.get c) c.isLt = s.channels := Vector.set_getElem_self c.isLt
  rw [State.modChan, h, State.setChan, State.chan, same]

theorem emit_modChan (c d : Chan) (f : Frame) (g : Channel → Channel) (s : State) :
    emit c f (s.modChan d g) = (emit c f s).modChan d g := by
  unfold emit
  rw [modChan_monitor]
  split <;> rfl

/-- A setpoint frame stands in the batch of the field event that its channel takes (R177). -/
theorem emit_queued (c : Chan) (f : Frame) (s : State) :
    (if s.monitor.headDue then (emit c f s).link.nextBatch else (emit c f s).link.batch).get c = some ⟨f, false⟩ := by
  have get (v : Batch) : v.get c = v[c.val] := rfl
  unfold emit
  split <;> simp [get]

/-- A notice changes the Outbound Queue alone (R187). -/
theorem notice_eq (p : List Byte) (s : State) : notice p s = { s with out := withNotice s p } := by
  unfold notice withNotice
  split <;> rfl

/-- The Link Interface with a generated frame last in the head control list, where that finds a place (R178). -/
def withHead (s : State) (f : Frame) : Link := { s.link with
  headControl := if s.link.headControl.length < 16 then s.link.headControl ++ [f] else s.link.headControl }

/-- A generated frame changes the head control list alone (R178). -/
theorem pushHead_eq (f : Frame) (s : State) : pushHead f s = { s with link := withHead s f } := by
  unfold pushHead withHead Config.headControlCapacity
  split <;> rfl

/-- A notice stands last in the Outbound Queue, or is lost (R187). -/
theorem notice_last_or_lost (p : List Byte) (s : State) : (notice p s).out.noticeLost = true
    ∨ (notice p s).out.entries.getLast? = some ⟨noticeFrame s p, none⟩ := by
  unfold notice
  split
  · exact .inl rfl
  · exact .inr List.getLast?_concat

/-- A generated frame stands last in the head control list, or the list is full (R178). -/
theorem pushHead_last_or_full (f : Frame) (s : State) : 16 ≤ (pushHead f s).link.headControl.length
    ∨ (pushHead f s).link.headControl.getLast? = some f := by
  unfold pushHead Config.headControlCapacity
  split
  · exact .inr List.getLast?_concat
  · exact .inl (by omega)

/-! ## What work at channels keeps -/

/-- A property that the work at the channels of D keeps: each of its steps at such a channel keeps it. -/
structure WorkKeeps (D : Chan → Prop) (I : State → Prop) : Prop where
  notice : ∀ p s, I s → I (notice p s)
  pushHead : ∀ f s, I s → I (pushHead f s)
  modChan : ∀ d f s, D d → I s → I (s.modChan d f)
  releaseEntry : ∀ s, I s → I (releaseEntry none s)
  freeZones : ∀ d zs s, D d → (∀ z ∈ zs, s.floor.owners.get z = some d) → I s → I (freeZones zs s)
  addWaiter : ∀ w s, D w.channel → I s → I (addWaiter w s)

section
variable {D : Chan → Prop} {I : State → Prop} (hI : WorkKeeps D I) {walk : State → State} (hw : ∀ s, I s → I (walk s))
  {d : Chan} (hd : D d)
include hI hw hd

theorem WorkKeeps.settleFloor (keep : Option (List Zone)) {s : State} (h : I s) : I (settleFloor walk d keep s) := by
  unfold Machine.settleFloor
  split
  · exact h
  · split
    · exact h
    · next zs e =>
      refine hw _ (hI.freeZones d _ s hd (fun z hz => ?_) h)
      rw [← e] at hz
      exact (mem_zonesOf s d z).1 (List.mem_of_mem_filter hz)

theorem WorkKeeps.enterManualWait (r : RestState) {s : State} (h : I s) : I (enterManualWait walk d r s) :=
  hw _ (hI.addWaiter _ _ hd (hI.modChan d _ s hd h))

theorem WorkKeeps.enterRest (r : RestState) {s : State} (h : I s) : I (enterRest walk d r s) := by
  have rests := hI.modChan d (toPhase (restPhase r)) s hd h
  simp only [Machine.enterRest]
  split
  · exact hI.enterManualWait hw hd _ rests
  · exact rests

theorem WorkKeeps.moveEnd (e : MoveEnd) (x : MoveExit) {s : State} (h : I s) : I (moveEnd walk d e x s) := by
  have booked := hI.releaseEntry _ (hI.modChan d (fun ch => { ch with last := some (e.cue.shot, e.outcome) }) _ hd
    (hI.notice (moveEndBytes d e.cue.shot e.cue.tag e) s h))
  have settled := hI.settleFloor hw hd e.keep booked
  cases x with
  | rest r => exact hI.enterRest hw hd r settled
  | fault => exact hI.modChan d _ _ hd settled

omit hd in
theorem WorkKeeps.takeGrant {w : Waiter} (hd : D w.channel) {s : State} (h : I s) : I (takeGrant walk s w) := by
  unfold Machine.takeGrant
  split
  · split
    · exact hI.moveEnd hw hd _ _ h
    · exact hI.modChan _ _ s hd h
  · exact hI.modChan _ _ _ hd (hI.notice _ _ (hI.pushHead _ _ h))
  · exact h

end

/-- The part after a pass over the waiters, before the handovers (R129). -/
def passed (s : State) : State :=
  { s with floor :=
      ⟨(walkPass s.floor.owners [] s.floor.waiters).1, (walkPass s.floor.owners [] s.floor.waiters).2.1⟩ }

/-- The waiters that a pass grants, oldest first (R129). -/
def granted (s : State) : List Waiter := (walkPass s.floor.owners [] s.floor.waiters).2.2

theorem walkN_succ (n : Nat) (s : State) : walkN (n + 1) s = (granted s).foldl (takeGrant (walkN n)) (passed s) := rfl

theorem mem_of_granted {s : State} {w : Waiter} (h : w ∈ granted s) : w ∈ s.floor.waiters :=
  (walkPass_sublist s.floor.waiters s.floor.owners []).2.subset h

/-- A property that a pass and every handover to a channel of its list keeps is kept by a walk. -/
theorem walkN_keeps_of {I : State → Prop} (pass : ∀ s, I s → I (passed s))
    (grant : ∀ walk : State → State, (∀ t, I t → I (walk t)) → ∀ s, I s → ∀ w ∈ s.floor.waiters, ∀ u, I u →
      I (takeGrant walk u w)) (n : Nat) : ∀ s, I s → I (walkN n s) := by
  induction n with
  | zero => exact fun _ h => h
  | succ n ih =>
    intro s h
    rw [walkN_succ]
    exact List.foldlRecOn _ _ (pass s h) fun u hu w hw => grant _ ih s h w (mem_of_granted hw) u hu

/-! ## The setpoint batches -/

/-- Both batches are as they were. -/
structure SameBatches (s t : State) : Prop where
  batch : t.link.batch = s.link.batch
  nextBatch : t.link.nextBatch = s.link.nextBatch

theorem SameBatches.of_link {s t u : State} (h : SameBatches s t) (k : u.link = t.link) : SameBatches s u := by
  constructor <;> rw [k]
  · exact h.batch
  · exact h.nextBatch

theorem SameBatches.trans {s t u : State} (h : SameBatches s t) (k : SameBatches t u) : SameBatches s u :=
  ⟨k.batch.trans h.batch, k.nextBatch.trans h.nextBatch⟩

theorem releaseEntry_link (o : Option Chan) (s : State) : (releaseEntry o s).link = s.link := by
  unfold releaseEntry
  split
  · split <;> rfl
  · rfl

/-- The work of the channels at a walk queues no setpoint frame (R177). -/
theorem SameBatches_work (s : State) : WorkKeeps (fun _ => True) (SameBatches s) where
  notice := fun p t h => h.of_link (notice_link p t)
  pushHead := fun f t h => by
    rw [pushHead_eq]
    exact ⟨h.batch, h.nextBatch⟩
  modChan := fun _ _ _ _ h => h.of_link rfl
  releaseEntry := fun t h => h.of_link (releaseEntry_link none t)
  freeZones := fun _ _ _ _ _ h => h.of_link rfl
  addWaiter := fun _ _ _ h => h.of_link rfl

theorem walk_batches (s : State) : SameBatches s (walk s) :=
  walkN_keeps_of (fun _ h => h.of_link rfl) (fun _ hw _ _ _ _ _ h => (SameBatches_work s).takeGrant hw trivial h) _ s
    ⟨rfl, rfl⟩

/-! ## Work at other channels -/

/-- The waiters of a channel on the list, oldest first. -/
def waitersOf (c : Chan) (s : State) : List Waiter := s.floor.waiters.filter fun w => w.channel == c

theorem waitersOf_eq_nil {c : Chan} {s : State} : waitersOf c s = [] ↔ ∀ w ∈ s.floor.waiters, w.channel ≠ c := by
  simp [waitersOf, List.filter_eq_nil_iff]

/-- What work at other channels leaves of a channel: it is aside, with its zones and its waiters. -/
structure Beside (c : Chan) (s t : State) : Prop where
  aside : Aside c s t
  owners : ∀ z, t.floor.owners.get z = some c ↔ s.floor.owners.get z = some c
  waiters : waitersOf c t = waitersOf c s

theorem Beside.refl (c : Chan) (s : State) : Beside c s s := ⟨Aside_refl c s, fun _ => Iff.rfl, rfl⟩

theorem Beside.trans {c : Chan} {s t u : State} (h : Beside c s t) (k : Beside c t u) : Beside c s u :=
  ⟨Aside_trans h.aside k.aside, fun z => (k.owners z).trans (h.owners z), k.waiters.trans h.waiters⟩

theorem Beside.of_floor {c : Chan} {s t : State} (h : Aside c s t) (k : t.floor = s.floor) : Beside c s t :=
  ⟨h, fun z => by rw [k], by rw [waitersOf, k]; rfl⟩

/-- The end of a move, a grant and a rest at other channels keep whatever holds beside them. -/
theorem WorkKeeps.of_beside {c : Chan} {I : State → Prop} (h : ∀ s t, I s → Beside c s t → I t) : WorkKeeps (· ≠ c) I where
  notice := fun p s k => h s _ k (.of_floor (Aside_of_eq (notice_chan p s c)) (notice_floor p s))
  pushHead := fun f s k => h s _ k (.of_floor (Aside_of_eq (pushHead_chan f s c)) (pushHead_floor f s))
  modChan := fun d f s hd k => h s _ k (.of_floor (Aside_modChan hd.symm s f) rfl)
  releaseEntry := fun s k => h s _ k (.of_floor (Aside_releaseEntry c none s) (releaseEntry_floor none s))
  freeZones := fun d zs s hd own k => h s _ k ⟨Aside_of_eq rfl, fun z => by
    rw [freeZones_get]
    split
    · next hz => simp [own z hz, hd]
    · rfl, rfl⟩
  addWaiter := fun w s hd k => h s _ k ⟨Aside_of_eq rfl, fun _ => Iff.rfl, by simp [waitersOf, hd]⟩

/-- A pass gives no zone to a channel with no waiter, and takes none from it (R129). -/
theorem passed_beside {c : Chan} {s : State} (h : waitersOf c s = []) : Beside c s (passed s) where
  aside := Aside_of_eq rfl
  owners := fun z => by
    refine ⟨fun own => ?_, walkPass_owned _⟩
    cases before : s.floor.owners.get z with
    | some d => exact (walkPass_owned _ before).symm.trans own
    | none =>
      obtain ⟨older, w, younger, e, hc, -⟩ := walkPass_gains before _ own
      exact absurd hc (waitersOf_eq_nil.1 h w (by simp [e]))
  waiters := by
    have stay : (waitersOf c (passed s)).Sublist (waitersOf c s) :=
      (walkPass_sublist s.floor.waiters s.floor.owners []).1.filter _
    rw [h] at stay ⊢
    exact List.sublist_nil.1 stay

theorem walkN_beside {c : Chan} {s : State} (h : waitersOf c s = []) (n : Nat) : Beside c s (walkN n s) := by
  refine walkN_keeps_of (fun t k => k.trans (passed_beside (k.waiters.trans h))) (fun _ hw t k w mem u hu => ?_) n s
    (.refl c s)
  exact (WorkKeeps.of_beside fun _ _ => Beside.trans).takeGrant hw (waitersOf_eq_nil.1 (k.waiters.trans h) w mem) hu

/-- A walk leaves a channel with no waiter, its zones among all else (R129). -/
theorem walk_beside {c : Chan} {s : State} (h : waitersOf c s = []) : Beside c s (walk s) := walkN_beside h _

/-! ## A channel with no move -/

/-- A channel has had no move to end: its zones stay its own, and it is left as it was but for its state, which is no zone
wait, and what the release of an entry may change. -/
structure Unmoved (c : Chan) (s t : State) : Prop where
  channel : ∃ p q n k, t.chan c = { s.chan c with phase := p, queue := q, nextRank := n, parked := k }
  phase : ∀ m, (t.chan c).phase ≠ .zoneWait m
  owners : ∀ z, s.floor.owners.get z = some c → t.floor.owners.get z = some c

theorem Unmoved.beside {c : Chan} {s t u : State} (h : Unmoved c s t) (k : Beside c t u) : Unmoved c s u where
  channel := by
    obtain ⟨p, _, _, _, e⟩ := h.channel
    obtain ⟨q, n, l, e'⟩ := k.aside
    exact ⟨p, q, n, l, by rw [e', e]⟩
  phase := by
    rw [Aside_phase k.aside]
    exact h.phase
  owners := fun z own => (k.owners z).2 (h.owners z own)

/-- A grant of the channel's own manual request. -/
theorem Unmoved.takeGrant {c : Chan} {s t : State} {walk : State → State} (hw : ∀ t, Unmoved c s t → Unmoved c s (walk t))
    (w : Waiter) (h : Unmoved c s t) : Unmoved c s (takeGrant walk t w) := by
  by_cases hc : w.channel = c
  · unfold Machine.takeGrant
    rw [hc]
    split
    · next m e => exact absurd e (h.phase m)
    · next r n e =>
      obtain ⟨p, q, k, l, e'⟩ := h.channel
      refine ⟨⟨.manual r, q, k, l, ?_⟩, by simp, by simpa using h.owners⟩
      rw [modChan_chan_self, notice_chan, sendGrant_chan, toPhase_keeps_limits (by simp [e, inMotion]), e']
    · exact h
  · exact (WorkKeeps.of_beside fun _ _ => Unmoved.beside).takeGrant hw hc h

theorem walk_unmoved {c : Chan} {s : State} (h : ∀ m, (s.chan c).phase ≠ .zoneWait m) : Unmoved c s (walk s) :=
  walkN_keeps_of (fun _ k => ⟨k.channel, k.phase, fun z own => walkPass_owned _ (k.owners z own)⟩)
    (fun _ hw _ _ w _ _ k => k.takeGrant hw w) _ s ⟨⟨_, _, _, _, rfl⟩, h, fun _ => id⟩

/-! ## A manual request in a walk (R131, R152, R154) -/

/-- The waiters of a pass are, in some order, those that stay and those it grants. -/
theorem walkPass_perm (ws : List Waiter) (owners : Vector (Option Chan) 24) (reserved : List Zone) :
    ((walkPass owners reserved ws).2.1 ++ (walkPass owners reserved ws).2.2).Perm ws := by
  induction ws generalizing owners reserved with
  | nil => exact .nil
  | cons w ws ih =>
    rw [walkPass]
    split
    · exact List.perm_middle.trans ((ih _ _).cons w)
    · exact (ih _ _).cons w

/-- A channel's one waiter stays on the list or is granted (R129). -/
theorem passed_or_granted {c : Chan} {w : Waiter} {s : State} (h : waitersOf c s = [w]) :
    (waitersOf c (passed s) = [w] ∧ ∀ x ∈ granted s, x.channel ≠ c)
      ∨ (waitersOf c (passed s) = [] ∧ ∃ older younger, granted s = older ++ w :: younger
        ∧ (∀ x ∈ older, x.channel ≠ c) ∧ ∀ x ∈ younger, x.channel ≠ c) := by
  have parts := (walkPass_perm s.floor.waiters s.floor.owners []).filter fun x => x.channel == c
  rw [List.filter_append] at parts
  have parts : waitersOf c (passed s) ++ (granted s).filter (fun x => x.channel == c) = [w] :=
    List.perm_singleton.1 (parts.trans (.of_eq h))
  rcases List.append_eq_singleton_iff.1 parts with ⟨stay, gets⟩ | ⟨stay, gets⟩
  · obtain ⟨older, younger, e, before, -, after⟩ := List.filter_eq_cons_iff.1 gets
    exact .inr ⟨stay, older, younger, e, by simpa using before, by simpa [List.filter_eq_nil_iff] using after⟩
  · exact .inl ⟨stay, by simpa [List.filter_eq_nil_iff] using gets⟩

/-- The channel is in MANUAL_WAIT, and its one waiter is on the list. -/
structure AwaitsZones (c : Chan) (r : RestState) (n : Nat) (w : Waiter) (s : State) : Prop where
  phase : (s.chan c).phase = .manualWait r n
  waiters : waitersOf c s = [w]

/-- The channel is in the given state, off the list, and owns the zones. -/
structure HasZones (c : Chan) (p : Phase) (zones : List Zone) (s : State) : Prop where
  phase : (s.chan c).phase = p
  waiters : waitersOf c s = []
  owners : ∀ z ∈ zones, s.floor.owners.get z = some c

theorem HasZones.beside {c : Chan} {p : Phase} {zones : List Zone} {s t : State} (h : HasZones c p zones s)
    (k : Beside c s t) : HasZones c p zones t :=
  ⟨(Aside_phase k.aside).trans h.phase, k.waiters.trans h.waiters, fun z hz => (k.owners z).2 (h.owners z hz)⟩

theorem AwaitsZones.beside {c : Chan} {r : RestState} {n : Nat} {w : Waiter} {s t : State} (h : AwaitsZones c r n w s)
    (k : Beside c s t) : AwaitsZones c r n w t := ⟨(Aside_phase k.aside).trans h.phase, k.waiters.trans h.waiters⟩

/-- A manual request is being served: it waits, or it has been granted whole. -/
def RequestServed (c : Chan) (r : RestState) (n : Nat) (w : Waiter) (s : State) : Prop :=
  AwaitsZones c r n w s ∨ HasZones c (.manual r) w.zones s

theorem RequestServed.beside {c : Chan} {r : RestState} {n : Nat} {w : Waiter} {s t : State} (h : RequestServed c r n w s)
    (k : Beside c s t) : RequestServed c r n w t := h.imp (·.beside k) (·.beside k)

/-- The handover of its zones to a channel in MANUAL_WAIT (R154). -/
theorem takeGrant_manual {walk : State → State} {w : Waiter} {r : RestState} {n : Nat} {s : State}
    (h : (s.chan w.channel).phase = .manualWait r n) : takeGrant walk s w
      = (notice (cameraEventPayload w.channel .manualGranted) (sendGrant w.channel s)).modChan w.channel
        (toPhase (.manual r)) := by simp only [takeGrant, h]

/-- The handover to a channel whose zones are already its own (R129, R154). -/
theorem HasZones.takeGrant {walk : State → State} {c : Chan} {r : RestState} {n : Nat} {w : Waiter} {s : State}
    (h : HasZones c (.manualWait r n) w.zones s) (hc : w.channel = c) :
    HasZones c (.manual r) w.zones (takeGrant walk s w) := by
  subst hc
  rw [takeGrant_manual h.phase]
  have floor : ((notice (cameraEventPayload w.channel .manualGranted) (sendGrant w.channel s)).modChan w.channel
      (toPhase (.manual r))).floor = s.floor := by simp
  refine ⟨by rw [modChan_chan_self, toPhase_phase], ?_, ?_⟩
  · rw [waitersOf, floor]
    exact h.waiters
  · rw [floor]
    exact h.owners

/-- Handovers to other channels. -/
theorem WorkKeeps.foldl_takeGrant {c : Chan} {I : State → Prop} (h : WorkKeeps (· ≠ c) I) {walk : State → State}
    (hw : ∀ t, I t → I (walk t)) {ws : List Waiter} (other : ∀ x ∈ ws, x.channel ≠ c) {s : State} (k : I s) :
    I (ws.foldl (Machine.takeGrant walk) s) := List.foldlRecOn _ _ k fun _ hu x hx => h.takeGrant hw (other x hx) hu

theorem HasZones.walkN {c : Chan} {p : Phase} {zones : List Zone} {s : State} (h : HasZones c p zones s) (n : Nat) :
    HasZones c p zones (walkN n s) := h.beside (walkN_beside h.waiters n)

/-- A walk keeps a manual request that is being served so: its waiter stays, or the handover comes at its turn, after those
to older waiters and before those to younger ones (R129, R131). -/
theorem walkN_requestServed {c : Chan} {r : RestState} {k : Nat} {w : Waiter} (hc : w.channel = c) (n : Nat) :
    ∀ s, RequestServed c r k w s → RequestServed c r k w (walkN n s) := by
  induction n with
  | zero => exact fun _ h => h
  | succ n ih =>
    intro s h
    rcases h with waits | has
    · rw [walkN_succ]
      have served : WorkKeeps (· ≠ c) (RequestServed c r k w) := .of_beside fun _ _ => RequestServed.beside
      rcases passed_or_granted waits.waiters with ⟨stays, other⟩ | ⟨gone, older, younger, e, before, after⟩
      · exact served.foldl_takeGrant ih other (.inl ⟨waits.phase, stays⟩)
      · have own : ∀ z ∈ w.zones, (passed s).floor.owners.get z = some c := fun z hz =>
          hc ▸ walkPass_granted s.floor.waiters (show w ∈ granted s by simp [e]) hz
        have turn : HasZones c (.manualWait r k) w.zones (older.foldl (takeGrant (walkN n)) (passed s)) :=
          (WorkKeeps.of_beside fun _ _ => HasZones.beside).foldl_takeGrant (fun _ h => h.walkN n) before
            ⟨waits.phase, gone, own⟩
        rw [e, List.foldl_append, List.foldl_cons]
        exact served.foldl_takeGrant ih after (.inr (turn.takeGrant hc))
    · exact .inr (has.walkN _)

/-- The waiter of a channel's manual request: it asks for the channel's manual zones (R152). -/
def manualWaiter (c : Chan) (s : State) : Waiter := ⟨c, .manual, (s.chan c).config.manualZones⟩

/-- A channel enters MANUAL_WAIT, its flag cleared (R152). -/
def intoManualWait (r : RestState) (ch : Channel) : Channel :=
  { toPhase (.manualWait r 0) ch with manualPending := false }

/-- Outside the motion set no limit record is applied at that (R26). -/
theorem intoManualWait_of_rest {r : RestState} {ch : Channel} (h : inMotion ch.phase = false) :
    intoManualWait r ch = { ch with phase := .manualWait r 0, manualPending := false } := by
  rw [intoManualWait, toPhase_keeps_limits (.inl h)]

theorem intoManualWait_config (r : RestState) (ch : Channel) : (intoManualWait r ch).config = ch.config :=
  toPhase_config _ ch

/-- The part with a channel in MANUAL_WAIT and its waiter the newest, before the walk (R128, R152). -/
def manualRequested (c : Chan) (r : RestState) (s : State) : State :=
  addWaiter (manualWaiter c s) (s.modChan c (intoManualWait r))

theorem enterManualWait_eq (walk : State → State) (c : Chan) (r : RestState) (s : State) :
    enterManualWait walk c r s = walk (manualRequested c r s) := rfl

theorem manualRequested_chan (c : Chan) (r : RestState) (s : State) :
    (manualRequested c r s).chan c = intoManualWait r (s.chan c) := by
  rw [manualRequested, addWaiter_chan, modChan_chan_self]

theorem manualRequested_phase (c : Chan) (r : RestState) (s : State) :
    ((manualRequested c r s).chan c).phase = .manualWait r 0 := by rw [manualRequested_chan]; rfl

theorem waitersOf_manualRequested (c : Chan) (r : RestState) (s : State) :
    waitersOf c (manualRequested c r s) = waitersOf c s ++ [manualWaiter c s] := by
  simp [waitersOf, manualRequested, manualWaiter]

/-- A manual request is served at once: with no other waiter of its channel on the list it waits as the newest, or it is
granted whole (R152). -/
theorem enterManualWait_served {c : Chan} (r : RestState) {s : State} (h : waitersOf c s = []) :
    RequestServed c r 0 (manualWaiter c s) (enterManualWait walk c r s) :=
  walkN_requestServed (c := c) rfl _ (manualRequested c r s)
    (.inl ⟨manualRequested_phase c r s, by rw [waitersOf_manualRequested, h, List.nil_append]⟩)

theorem enterManualWait_unmoved (c : Chan) (r : RestState) (s : State) :
    Unmoved c (manualRequested c r s) (enterManualWait walk c r s) :=
  walk_unmoved fun m => by simp [manualRequested_phase]

/-! ## Rest (R122, R152) -/

theorem enterRest_of_unpending {walk : State → State} {c : Chan} {r : RestState} {s : State}
    (h : r = .idle ∨ (s.chan c).manualPending = false) : enterRest walk c r s = s.modChan c (toPhase (restPhase r)) := by
  rcases h with rfl | h
  · rfl
  · simp [enterRest, h]

theorem enterRest_of_pending {walk : State → State} {c : Chan} {s : State} (h : (s.chan c).manualPending = true) :
    enterRest walk c .held s = enterManualWait walk c .held (s.modChan c (toPhase .held)) := by
  simp [enterRest, h, restPhase]

theorem restPhase_eq (r : RestState) : restPhase r = if r = .idle then .idle else .held := by cases r <;> rfl

/-- A channel comes to rest, a pending manual request served at once in HELD (R122, R152). -/
theorem enterRest_rests {c : Chan} (r : RestState) {s : State} (others : NoOtherWaiter s c → waitersOf c s = []) :
    RestsIn s (enterRest walk c r s) c r := by
  refine ⟨fun unpending => ?_, fun held pending alone => ?_⟩
  · rw [enterRest_of_unpending unpending, modChan_chan_self, toPhase_phase, toPhase_manualPending, restPhase_eq]
    exact ⟨rfl, rfl⟩
  · subst held
    rw [enterRest_of_pending pending]
    obtain ⟨_, _, _, _, left⟩ := (enterManualWait_unmoved c .held (s.modChan c (toPhase .held))).channel
    refine ⟨by rw [left, manualRequested_chan]; rfl, ?_⟩
    have served := enterManualWait_served .held (s := s.modChan c (toPhase .held)) (others alone)
    rw [manualWaiter, modChan_chan_self, toPhase_config] at served
    refine served.imp (fun waits => ⟨waits.phase, ?_⟩) fun has => ⟨has.phase, has.owners⟩
    exact List.mem_of_mem_filter (waits.waiters ▸ List.mem_singleton_self _)

end Sys2Proof.Machine
end

section
/-! JOG frames (R142 to R145). -/

namespace Sys2Proof.Machine

theorem exec_jog {s : State} {m : Msg} {c : Chan} (h : AtCamera s m (cameraCode .jog) c) :
    exec (.jog m) s = .next (jogFrame c m.payload (afterControl s)) := congrArg Host.Outcome.next (receive_camera h)

theorem jogFrame_badLength {c : Chan} {p : List Byte} (s : State) (h : readJog p = none) : jogFrame c p s = s := by
  simp only [jogFrame, h]

/-- A JOG frame of a right length acts at its channel alone (R142). -/
theorem exec_jog_read {s : State} {m : Msg} {c : Chan} {d : PerAxis (Option Int)} (h : AtCamera s m (cameraCode .jog) c)
    (hd : readJog m.payload = some d) : exec (.jog m) s = .next (afterControl (s.modChan c (takeJog d))) := by
  rw [exec_jog h, jogFrame, hd]
  rfl

/-- The demands a channel can use: axes of its mask other than TRAVEL (R142). -/
theorem usableDemands_get (ch : Channel) (d : PerAxis (Option Int)) (a : Axis) :
    (usableDemands ch d).get a = if ch.config.mask.get a = true ∧ a ≠ .travel then d.get a else none := by
  simp [usableDemands]

theorem any_isSome_iff (v : PerAxis (Option Int)) : v.toList.any Option.isSome = true ↔ ∃ a, v.get a ≠ none := by
  have every : v.toList = allAxes.map v.get := rfl
  simp [every, mem_allAxes, Option.isSome_iff_ne_none]

theorem takeJog_jogging {ch : Channel} {j : Jog} (d : PerAxis (Option Int)) (h : ch.phase = .jogging j) :
    takeJog d ch = { ch with phase := .jogging (updateJog (usableDemands ch d) j) } := by simp only [takeJog, h]

/-- A resting channel with position valid starts a jog where a demand is usable (R143). -/
theorem takeJog_starts {ch : Channel} {r : RestState} {d : PerAxis (Option Int)} (h : ch.phase = restPhase r)
    (valid : ch.valid = true) (usable : ∃ a, (usableDemands ch d).get a ≠ none) :
    takeJog d ch = intoMotion (.jogging (startJog (usableDemands ch d) r)) ch := by
  cases r <;> simp [takeJog, h, restPhase, jogReturn, valid, (any_isSome_iff _).2 usable]

theorem takeJog_discarded {ch : Channel} {r : RestState} {d : PerAxis (Option Int)} (h : ch.phase = restPhase r)
    (unfit : ch.valid = false ∨ ∀ a, (usableDemands ch d).get a = none) : takeJog d ch = ch := by
  have refused : (ch.valid && (usableDemands ch d).toList.any Option.isSome) = false := by
    rw [Bool.and_eq_false_iff, ← Bool.not_eq_true (List.any _ _), any_isSome_iff]
    exact unfit.imp_right fun all ⟨a, ha⟩ => ha (all a)
  cases r <;> simp [takeJog, h, restPhase, jogReturn, refused]

/-- A channel that neither rests nor jogs discards a JOG frame (R145). -/
theorem takeJog_elsewhere {ch : Channel} (d : PerAxis (Option Int)) (idle : ch.phase ≠ .idle) (held : ch.phase ≠ .held)
    (jogging : ∀ j, ch.phase ≠ .jogging j) : takeJog d ch = ch := by
  unfold takeJog
  cases phase : ch.phase with
  | idle => exact absurd phase idle
  | held => exact absurd phase held
  | jogging j => exact absurd phase (jogging j)
  | vacant | zoneWait | moving | stopping | settling | manualWait | manual | fault => rfl

end Sys2Proof.Machine

namespace Sys2Proof.Proofs
open Sys2Proof.Machine

/-- Settles O48: the frame acts by takeJog at its channel alone, which has one equation for each kind of state. -/
theorem jogFrameStartsRenewsOrIsDiscarded : Obligations.JogFrameStartsRenewsOrIsDiscarded := by
  intro s m c h
  refine ⟨fun bad => by rw [exec_jog h, jogFrame_badLength _ bad], ?_⟩
  intro d hd usable
  have usable_eq : usable = (usableDemands (s.chan c) d).get := funext fun a => (usableDemands_get _ d a).symm
  clear_value usable
  subst usable_eq
  have unchanged (same : takeJog d (s.chan c) = s.chan c) : exec (.jog m) s = .next (afterControl s) := by
    rw [exec_jog_read h hd, modChan_of_eq same]
  refine ⟨fun r rests => ?_, fun j jogging => ?_, fun idle held jogging => unchanged (takeJog_elsewhere d idle held jogging)⟩
  · have phase : (s.chan c).phase = restPhase r := by
      rcases rests with ⟨phase, rfl⟩ | ⟨phase, rfl⟩ <;> exact phase
    refine ⟨fun valid fit => ?_, fun unfit => unchanged (takeJog_discarded phase unfit)⟩
    rw [exec_jog_read h hd, modChan_congr (takeJog_starts phase valid fit)]
    rfl
  · let renewed := updateJog (usableDemands (s.chan c) d) j
    rw [exec_jog_read h hd, modChan_congr (g := fun ch => { ch with phase := .jogging renewed }) (takeJog_jogging d jogging)]
    rfl

end Sys2Proof.Proofs
end

section
/-! The field event of a jog, and a rest in HELD that serves a pending manual request (R146, R147, R152). -/

namespace Sys2Proof.Machine

/-! ## The field event of a channel (R62) -/

theorem fieldStep_taken {comesTo : Channel → Bool} {s : State} {c : Chan} (held : s.resetHeld = false)
    (due : (s.chan c).fieldDue = true) (h : comesTo (s.chan c) = true) : fieldStep comesTo c s = takeField c s := by
  simp [fieldStep, held, due, h]

/-- A mapped channel that does not lose its reports keeps its books and does its state's work (R62). -/
theorem takeField_works {s : State} {c : Chan} (due : (s.chan c).fieldDue = true) (mapped : (s.chan c).phase ≠ .vacant)
    (reports : losesReports (s.chan c) = false) : takeField c s = fieldWork c (s.modChan c bookkeep) := by
  have kept : reportsLost (bookkeep (s.chan c)) = false := reports
  simp [takeField, due, Machine.mapped, mapped, kept]

theorem losesReports_of_ready {s : State} {c : Chan} (h : FieldReady s c) : losesReports (s.chan c) = false := by
  have inTime : ¬(bookkeep (s.chan c)).config.reportTimeout ≤ (bookkeep (s.chan c)).reportAge := Nat.not_le.2 h.2.2
  simp [losesReports, reportsLost, inTime]

/-- Outside the motion set reports are not awaited (R67). -/
theorem losesReports_of_rest {ch : Channel} (h : inMotion ch.phase = false) : losesReports ch = false := by
  have rests : inMotion (bookkeep ch).phase = false := h
  simp [losesReports, reportsLost, rests]

/-! ## A jog step (R146) -/

theorem ageJog_eq (j : Jog) :
    ageJog j = if 7 ≤ j.age then { zeroDemands j with age := 8 } else { j with age := j.age + 1 } := by
  unfold ageJog Config.jogDeadmanAge
  by_cases old : 7 ≤ j.age
  · simp [old, zeroDemands]
  · have age : min 8 (j.age + 1) = j.age + 1 := by omega
    have young : j.age + 1 ≠ 8 := by omega
    simp [old, age, young]

theorem ageJog_ret (j : Jog) : (ageJog j).ret = j.ret := by
  rw [ageJog_eq]
  split <;> rfl

theorem stepJog_get (ch : Channel) (j : Jog) (a : Axis) : (stepJog ch j).axes.get a
    = (j.axes.get a).map fun ja => (jogStep (ch.limits.get a) ch.tally (ch.commanded.get a) ja).2 := by
  rw [stepJog, PerAxis_get_ofFn]

theorem jogPositions_get (ch : Channel) (j : Jog) (a : Axis) : (jogPositions ch j).get a
    = ((j.axes.get a).map fun ja => (jogStep (ch.limits.get a) ch.tally (ch.commanded.get a) ja).1).getD
      (ch.commanded.get a) := by
  rw [jogPositions, PerAxis_get_ofFn]
  cases j.axes.get a <;> rfl

theorem jogSetpoints_get (ch : Channel) (j : Jog) (a : Axis) : (jogSetpoints ch j).get a = (j.axes.get a).map fun ja =>
    dither (ch.commanded.get a) (jogStep (ch.limits.get a) ch.tally (ch.commanded.get a) ja).1 := by
  rw [jogSetpoints, PerAxis_get_ofFn, jogPositions_get]
  cases j.axes.get a <;> rfl

/-- A jog step keeps the demands, which the deadman has set to 0 (R146). -/
theorem stepJog_demand_zero {ch : Channel} {j : Jog} (old : 7 ≤ j.age) {a : Axis} {ja : JogAxis}
    (h : (stepJog ch (ageJog j)).axes.get a = some ja) : ja.demand = 0 := by
  rw [stepJog_get, ageJog_eq, if_pos old, zeroDemands, PerAxis_get_ofFn, Option.map_map, Option.map_eq_some_iff] at h
  obtain ⟨_, _, rfl⟩ := h
  rfl

theorem jogAtRest_iff (j : Jog) :
    jogAtRest j = true ↔ ∀ a ja, j.axes.get a = some ja → ja.demand = 0 ∧ ja.velocity = 0 := by
  have every : j.axes.toList = allAxes.map j.axes.get := rfl
  rw [jogAtRest, every, List.all_map, List.all_eq_true]
  refine ⟨fun h a ja e => ?_, fun h a _ => ?_⟩
  · simpa [e] using h a (mem_allAxes a)
  · cases e : j.axes.get a with
    | none => simp [e]
    | some ja => simpa [e] using h a ja e

/-- The part after a jog step of a channel that has kept its books: the JOG frame is queued, and the channel has its new
positions, demands and velocities (R146). -/
def jogStepped (c : Chan) (j : Jog) (s : State) : State :=
  (emit c (setpointFrame s c 2 (jogSetpoints (s.chan c) j)) s).setChan c
    { bookkeep (s.chan c) with
      commanded := jogPositions (s.chan c) j
      phase := .jogging (stepJog (s.chan c) j) }

theorem jogStepped_chan (c : Chan) (j : Jog) (s : State) : (jogStepped c j s).chan c
    = { bookkeep (s.chan c) with
        commanded := jogPositions (s.chan c) j
        phase := .jogging (stepJog (s.chan c) j) } := by rw [jogStepped, setChan_chan, if_pos rfl]

theorem jogStepped_floor (c : Chan) (j : Jog) (s : State) : (jogStepped c j s).floor = s.floor := by
  rw [jogStepped, setChan_floor, emit_floor]

/-- The field event of a jog: its step, and its end where that leaves the jog at rest (R146, R147). -/
theorem takeField_jogging {s : State} {c : Chan} {j : Jog} (h : FieldReady s c) (jogging : (s.chan c).phase = .jogging j) :
    takeField c s = if jogAtRest (stepJog (s.chan c) (ageJog j)) = true
      then enterRest walk c j.ret (jogStepped c (ageJog j) s) else jogStepped c (ageJog j) s := by
  have phase : ((s.modChan c bookkeep).chan c).phase = .jogging j := by rwa [modChan_chan_self]
  have frame (points : PerAxis (Option (List Int))) :
      setpointFrame (s.modChan c bookkeep) c 2 points = setpointFrame s c 2 points := by
    rw [setpointFrame, modChan_chan_self]
    rfl
  rw [takeField_works h.2.1 (by simp [jogging]) (losesReports_of_ready h), fieldWork, phase]
  simp only [jogField, modChan_chan_self, ageJog_ret, frame, emit_modChan, modChan_modChan]
  simp only [State.modChan, emit_chan]
  rfl

/-- The rest of a channel depends on what stands before through its flag, its configuration and its waiters. -/
theorem RestsIn_congr {s u t : State} {c : Chan} {r : RestState}
    (pending : (u.chan c).manualPending = (s.chan c).manualPending) (config : (u.chan c).config = (s.chan c).config)
    (alone : NoOtherWaiter s c → NoOtherWaiter u c) (h : RestsIn u t c r) : RestsIn s t c r := by
  unfold RestsIn at h ⊢
  rw [pending, config] at h
  exact ⟨h.1, fun held flag others => h.2 held flag (alone others)⟩

/-- The end of a jog in its return state (R147, R152). -/
theorem jogStepped_rests {s : State} {c : Chan} {j i : Jog} (jogging : (s.chan c).phase = .jogging j) (r : RestState) :
    RestsIn s (enterRest walk c r (jogStepped c i s)) c r := by
  have alone : NoOtherWaiter s c → ∀ w ∈ s.floor.waiters, w.channel ≠ c := by
    rintro (⟨m, waits⟩ | others)
    · exact nomatch jogging.symm.trans waits
    · exact others
  have chan := jogStepped_chan c i s
  have floor := jogStepped_floor c i s
  refine RestsIn_congr (u := jogStepped c i s) (by rw [chan]; rfl) (by rw [chan]; rfl) (fun h => .inr ?_)
    (enterRest_rests r ?_)
  · rw [floor]
    exact alone h
  · rintro (⟨m, waits⟩ | others)
    · rw [chan] at waits
      cases waits
    · exact waitersOf_eq_nil.2 others

theorem reachesDeadman_of {s : State} {c : Chan} {j : Jog} (h : FieldReady s c) (jogging : (s.chan c).phase = .jogging j)
    (old : 7 ≤ j.age) : reachesDeadman (s.chan c) = true := by
  simp [reachesDeadman, losesReports_of_ready h, jogging, Config.jogDeadmanAge, old]

theorem endsJog_of {s : State} {c : Chan} {j : Jog} (h : FieldReady s c) (jogging : (s.chan c).phase = .jogging j)
    (rest : jogAtRest (stepJog (s.chan c) (ageJog j)) = true) : endsJog (s.chan c) = true := by
  simp [endsJog, losesReports_of_ready h, jogging, rest]

/-! ## A rest that serves a manual request (R26, R152) -/

theorem LimitsApplied_of {s t : State} {c : Chan} (limits : (t.chan c).limits = (applyPending (s.chan c)).limits)
    (pending : (t.chan c).pendingLimits = .all none) : LimitsApplied s t c := fun a => by
  rw [limits, pending]
  exact ⟨PerAxis_get_all none a, PerAxis_get_ofFn _ a⟩

/-- What a channel of the motion set is when it rests in HELD and its pending manual request has been served. -/
theorem enterRest_pending_chan {s : State} {c : Chan} (motion : inMotion (s.chan c).phase = true)
    (pending : (s.chan c).manualPending = true) : ∃ p q n k, (enterRest walk c .held s).chan c
      = { applyPending (s.chan c) with phase := p, manualPending := false, queue := q, nextRank := n, parked := k } := by
  obtain ⟨p, q, n, k, left⟩ := (enterManualWait_unmoved c .held (s.modChan c (toPhase .held))).channel
  refine ⟨p, q, n, k, ?_⟩
  rw [enterRest_of_pending pending, left, manualRequested_chan, modChan_chan_self, intoManualWait_of_rest rfl,
    toPhase_leaves_motion motion rfl]

/-- It keeps its zones, and no setpoint frame is queued. -/
theorem enterRest_pending_keeps {s : State} {c : Chan} (pending : (s.chan c).manualPending = true) :
    (∀ z, s.floor.owners.get z = some c → (enterRest walk c .held s).floor.owners.get z = some c)
      ∧ SameBatches s (enterRest walk c .held s) := by
  rw [enterRest_of_pending pending]
  exact ⟨(enterManualWait_unmoved c .held (s.modChan c (toPhase .held))).owners,
    (SameBatches_work s).enterManualWait (fun t h => h.trans (walk_batches t)) trivial _ ⟨rfl, rfl⟩⟩

end Sys2Proof.Machine

namespace Sys2Proof.Proofs
open Sys2Proof.Machine

/-- Settles O43: the field event of a jog is its step, and an entry into the return state where that leaves it at rest. -/
theorem jogWindsDownAtDeadmanAndEndsAtRest : Obligations.JogWindsDownAtDeadmanAndEndsAtRest := by
  intro s c j ready jogging aged stepped j' points ch atRest
  have aged_eq : aged = ageJog j := (ageJog_eq j).symm
  have j'_eq : j' = stepJog (s.chan c) (ageJog j) := by
    simp only [j', stepped, aged_eq, Option.map_map, stepJog, Function.comp_def]
  have points_eq : points = setpointFrame s c 2 (jogSetpoints (s.chan c) (ageJog j)) := by
    refine congrArg (setpointFrame s c 2) (PerAxis_ext _ _ fun a => ?_)
    simp only [stepped, aged_eq, PerAxis_get_ofFn, jogSetpoints_get, Option.map_map, Function.comp_def]
  have ch_eq : ch = { bookkeep (s.chan c) with commanded := jogPositions (s.chan c) (ageJog j) } := by
    have positions : (PerAxis.ofFn fun a => ((stepped a).map Prod.fst).getD ((s.chan c).commanded.get a))
        = jogPositions (s.chan c) (ageJog j) := PerAxis_ext _ _ fun a => by
      simp only [stepped, aged_eq, PerAxis_get_ofFn, jogPositions_get, Option.map_map, Function.comp_def]
    simp only [ch, positions]
  have atRest_iff : jogAtRest (stepJog (s.chan c) (ageJog j)) = true ↔ atRest := by rw [jogAtRest_iff, ← j'_eq]
  have ends (rest : atRest) : takeField c s = enterRest walk c j.ret (jogStepped c (ageJog j) s) := by
    rw [takeField_jogging ready jogging, if_pos (atRest_iff.2 rest)]
  have exec_jogEnd (rest : atRest) :
      exec (.jogEnd c) s = .next (enterRest walk c j.ret (jogStepped c (ageJog j) s)) :=
    congrArg Host.Outcome.next
      ((fieldStep_taken ready.1 ready.2.1 (endsJog_of ready jogging (atRest_iff.2 rest))).trans (ends rest))
  have stepped_chan := jogStepped_chan c (ageJog j) s
  refine ⟨fun old moves => ⟨?_, fun a ja h => stepJog_demand_zero old (j'_eq ▸ h)⟩, fun rest unpending => ?_,
    fun rest held pending => ⟨_, exec_jogEnd rest, ?_⟩⟩
  · have taken := fieldStep_taken ready.1 ready.2.1 (reachesDeadman_of ready jogging old)
    rw [takeField_jogging ready jogging, if_neg (mt atRest_iff.1 moves)] at taken
    rw [points_eq, ch_eq, j'_eq]
    exact congrArg Host.Outcome.next taken
  · rw [exec_jogEnd rest, enterRest_of_unpending (by rwa [stepped_chan]), jogStepped, setChan_modChan,
      toPhase_leaves_motion rfl (by cases j.ret <;> rfl), restPhase_eq, points_eq, ch_eq]
    rfl
  · have pending' : ((jogStepped c (ageJog j) s).chan c).manualPending = true := by rwa [stepped_chan]
    obtain ⟨p, q, n, k, left⟩ := enterRest_pending_chan (by rw [stepped_chan]; rfl) pending'
    obtain ⟨zones, batches⟩ := enterRest_pending_keeps pending'
    rw [jogStepped_floor] at zones
    have keeps := takeField_keeps c s
    rw [ends rest] at keeps
    rw [held] at keeps ⊢
    refine ⟨jogStepped_rests jogging .held, LimitsApplied_of ?_ ?_, ?_, ?_, zones, ?_, keeps.shots, keeps.monitor⟩
    · rw [left, stepped_chan]
      rfl
    · rw [left]
      rfl
    · rw [left, stepped_chan, ch_eq]
      rfl
    · rw [left, stepped_chan]
      rfl
    · rw [batches.batch, batches.nextBatch, points_eq]
      exact emit_queued c _ s

end Sys2Proof.Proofs
end

section
/-! The manual handover: MANUAL REQUEST, MANUAL RELEASE and the end of a manual wait (R151 to R155). -/

namespace Sys2Proof.Machine

/-! ## A channel withdrawn from the Zone Wait List (R132) -/

theorem waitersOf_dropWaiter (c : Chan) (s : State) : waitersOf c (dropWaiter c s) = [] :=
  waitersOf_eq_nil.2 fun w hw => by simpa using (List.mem_filter.1 hw).2

/-- A channel withdrawn, with the walk that follows, is aside and keeps the zones it owned. -/
theorem walk_dropWaiter_beside (c : Chan) (s : State) : Beside c (dropWaiter c s) (walk (dropWaiter c s)) :=
  walk_beside (waitersOf_dropWaiter c s)

theorem walk_dropWaiter_keeps (c : Chan) (s : State) : Keeps s (walk (dropWaiter c s)) :=
  Keeps_trans (dropWaiter_keeps c s) (walk_keeps _)

/-- A withdrawn channel has no waiter on the list, and the zones it owned. -/
theorem walk_dropWaiter_floor (c : Chan) (s : State) : (∀ w ∈ (walk (dropWaiter c s)).floor.waiters, w.channel ≠ c)
    ∧ ∀ z, (walk (dropWaiter c s)).floor.owners.get z = some c ↔ s.floor.owners.get z = some c := by
  have beside := walk_dropWaiter_beside c s
  exact ⟨waitersOf_eq_nil.1 (beside.waiters.trans (waitersOf_dropWaiter c s)), beside.owners⟩

/-- A MANUAL DENY frame stands last in the head control list, or the list is full (R178, R190). -/
theorem sendDeny_last_or_full (c : Chan) (reason : Byte) (s : State) : 16 ≤ (sendDeny c reason s).link.headControl.length
    ∨ (sendDeny c reason s).link.headControl.getLast? = some ⟨(s.chan c).config.link, s.partAddress, 0x52, [reason]⟩ :=
  pushHead_last_or_full _ s

theorem noticeFrame_congr {s t : State} (h : t.partAddress = s.partAddress) (p : List Byte) :
    noticeFrame t p = noticeFrame s p := by rw [noticeFrame, h, noticeFrame]

/-! ## The end of a manual wait (R153) -/

/-- The part with a manual wait's field event taken into its channel's books and its count (R62, R153). -/
def manualWaitCounted (c : Chan) (r : RestState) (n : Nat) (s : State) : State :=
  s.modChan c fun ch => { bookkeep ch with phase := .manualWait r (nextCount n) }

theorem manualWaitCounted_config (c : Chan) (r : RestState) (n : Nat) (s : State) :
    ((manualWaitCounted c r n s).chan c).config = (s.chan c).config := by
  rw [manualWaitCounted, modChan_chan_self]
  rfl

theorem waitExpired_of {limit n : Nat} (some : limit ≠ 0) (h : limit ≤ min 4095 (n + 1)) :
    waitExpired limit (nextCount n) = true := by
  simpa [waitExpired, nextCount, Config.maxWaitCount, some] using h

/-- The field event of a manual wait whose count reaches the limit: it is withdrawn, denied and noticed, and its channel
enters the return state (R153). -/
theorem takeField_manualWait_expired {s : State} {c : Chan} {r : RestState} {n : Nat} (due : (s.chan c).fieldDue = true)
    (waits : (s.chan c).phase = .manualWait r n) (expired : waitExpired (s.chan c).config.zoneWaitLimit (nextCount n) = true) :
    takeField c s = (notice (cameraEventPayload c .manualDeniedZones) (sendDeny c 1
      (walk (dropWaiter c (manualWaitCounted c r n s))))).modChan c (toPhase (restPhase r)) := by
  have reports : losesReports (s.chan c) = false := losesReports_of_rest (by rw [waits]; rfl)
  have phase : ((s.modChan c bookkeep).chan c).phase = .manualWait r n := by rwa [modChan_chan_self]
  have limit : ((manualWaitCounted c r n s).chan c).config.zoneWaitLimit = (s.chan c).config.zoneWaitLimit := by
    rw [manualWaitCounted_config]
  rw [manualWaitCounted] at limit ⊢
  rw [takeField_works due (by simp [waits]) reports, fieldWork, phase]
  simp only [manualWaitField, modChan_modChan, limit, expired, if_true]

/-! ## MANUAL REQUEST (R151, R152, R154) -/

theorem exec_manualRequest {s : State} {m : Msg} {c : Chan} (h : FromHead s m (headCode .manualRequest) c)
    (hm : m.payload = []) : exec (.manualRequest m) s = .next (takeManualRequest c (afterHead s)) := by
  refine congrArg Host.Outcome.next ((receive_head h).trans ?_)
  exact if_pos hm

/-- With every walk complete a request finds its zones open when each is (R128). -/
theorem findsOpen_iff {s : State} (walked : Walked s) (w : Waiter) :
    FindsOpen (walkPass s.floor.owners [] s.floor.waiters).1 (walkPass s.floor.owners [] s.floor.waiters).2.1 w
      ↔ ∀ z ∈ w.zones, ZoneOpen s w.channel z := by
  rw [(walkPass_none walked).1, (walkPass_none walked).2]

/-- A manual request for a zone that is closed to it waits (R128, R152). -/
theorem enterManualWait_waits {c : Chan} {s : State} (walked : Walked s)
    (closed : ¬∀ z ∈ (s.chan c).config.manualZones, ZoneOpen s c z) (r : RestState) :
    enterManualWait walk c r s = manualRequested c r s := by
  have stays := walkPass_visit_stays (mt (findsOpen_iff walked (manualWaiter c s)).1 closed)
  exact walk_of_walked ((congrArg (·.2.2) stays).trans walked)

/-- A manual request for open zones takes them and is granted at once (R128, R154). -/
theorem enterManualWait_grants {c : Chan} {s : State} (walked : Walked s)
    (opens : ∀ z ∈ (s.chan c).config.manualZones, ZoneOpen s c z) (r : RestState) :
    enterManualWait walk c r s = ({ s with
      floor := ⟨ownZones s.floor.owners c (s.chan c).config.manualZones, s.floor.waiters⟩
      link := withHead s ⟨(s.chan c).config.link, s.partAddress, 0x51, []⟩
      out := withNotice s (cameraEventPayload c .manualGranted) } : State).modChan c
        fun ch => toPhase (.manual r) (intoManualWait r ch) := by
  have visit := walkPass_visit_granted ((findsOpen_iff walked (manualWaiter c s)).2 opens)
  rw [(walkPass_none walked).1, (walkPass_none walked).2, walked] at visit
  have grants : granted (manualRequested c r s) = [manualWaiter c s] := congrArg (·.2.2) visit
  have floor : passed (manualRequested c r s) = ({ s with
      floor := ⟨ownZones s.floor.owners c (s.chan c).config.manualZones, s.floor.waiters⟩ } : State).modChan c
        (intoManualWait r) :=
    congrArg (fun p => { manualRequested c r s with floor := (⟨p.1, p.2.1⟩ : Floor) }) visit
  rw [enterManualWait_eq, walk, walkN_succ, grants, floor, List.foldl_cons, List.foldl_nil,
    takeGrant_manual (w := manualWaiter c s) (r := r) (n := 0) (by rw [manualWaiter, modChan_chan_self]; rfl),
    notice_eq, sendGrant, pushHead_eq, manualWaiter, modChan_chan_self, intoManualWait_config]
  exact modChan_modChan { s with
    floor := ⟨ownZones s.floor.owners c (s.chan c).config.manualZones, s.floor.waiters⟩
    link := withHead s ⟨(s.chan c).config.link, s.partAddress, 0x51, []⟩
    out := withNotice s (cameraEventPayload c .manualGranted) } c (intoManualWait r) (toPhase (.manual r))

theorem takeManualRequest_rests {c : Chan} {r : RestState} {s : State} (h : (s.chan c).phase = restPhase r) :
    takeManualRequest c s = enterManualWait walk c r s := by cases r <;> simp only [takeManualRequest, h, restPhase]

/-- In the motion set a manual request is pending (R151). -/
theorem takeManualRequest_motion {c : Chan} {s : State} (h : inMotion (s.chan c).phase = true) :
    takeManualRequest c s = s.modChan c fun ch => { ch with manualPending := true } := by
  unfold takeManualRequest
  cases phase : (s.chan c).phase with
  | zoneWait | moving | stopping | settling | jogging => rfl
  | _ => simp [phase, inMotion] at h

theorem takeManualRequest_fault {c : Chan} {s : State} (h : (s.chan c).phase = .fault) :
    takeManualRequest c s = notice (cameraEventPayload c .manualDeniedFault) (sendDeny c 2 s) := by
  simp only [takeManualRequest, h]

/-! ## MANUAL RELEASE (R155) -/

theorem exec_manualRelease {s : State} {m : Msg} {c : Chan} (h : FromHead s m (headCode .manualRelease) c)
    (hm : m.payload = []) : exec (.manualRelease m) s = .next (takeManualRelease c (afterHead s)) := by
  refine congrArg Host.Outcome.next ((receive_head h).trans ?_)
  exact if_pos hm

theorem toPhase_released {ch : Channel} {r : RestState} (h : ch.phase = .manual r) :
    toPhase (restPhase r) (if ch.valid then takeReported ch else ch)
      = if ch.valid then { takeReported ch with phase := restPhase r } else { ch with phase := restPhase r } := by
  have still : inMotion ch.phase = false := by rw [h]; rfl
  split
  · exact toPhase_keeps_limits (ch := takeReported ch) (.inl still)
  · exact toPhase_keeps_limits (.inl still)

/-- A release in MANUAL: the reported positions become commanded when valid, and the channel enters its return state. -/
theorem takeManualRelease_manual {c : Chan} {r : RestState} {s : State} (h : (s.chan c).phase = .manual r) :
    takeManualRelease c s = ({ s with out := withNotice s (cameraEventPayload c .manualReleased) } : State).modChan c
      fun ch => if ch.valid then { takeReported ch with phase := restPhase r } else { ch with phase := restPhase r } := by
  simp only [takeManualRelease, h, notice_eq]
  exact (modChan_modChan { s with out := withNotice s (cameraEventPayload c .manualReleased) } c _ _).trans
    (modChan_congr (toPhase_released h))

theorem takeManualRelease_waiting {c : Chan} {r : RestState} {n : Nat} {s : State} (h : (s.chan c).phase = .manualWait r n) :
    takeManualRelease c s = (notice (cameraEventPayload c .manualWithdrawn) (walk (dropWaiter c s))).modChan c
      (toPhase (restPhase r)) := by simp only [takeManualRelease, h]

theorem takeManualRelease_elsewhere {c : Chan} {s : State}
    (h : ∀ r n, (s.chan c).phase ≠ .manual r ∧ (s.chan c).phase ≠ .manualWait r n) : takeManualRelease c s = s := by
  unfold takeManualRelease
  split
  · next r n e => exact absurd e (h r n).2
  · next r e => exact absurd e (h r 0).1
  · rfl

end Sys2Proof.Machine

namespace Sys2Proof.Proofs
open Sys2Proof.Machine

/-- Settles O47: the field event withdraws the channel, denies its request, and lets it rest. -/
theorem manualWaitTimeoutDeniesRequest : Obligations.ManualWaitTimeoutDeniesRequest := by
  intro s c r n held due waits limit reached
  have expired := waitExpired_of limit reached
  have counted : expiresManualWait (s.chan c) = true := by rwa [expiresManualWait, waits]
  have works := takeField_manualWait_expired due waits expired
  have whole := takeField_keeps c s
  rw [works] at whole
  have withdrawn := walk_dropWaiter_keeps c (manualWaitCounted c r n s)
  obtain ⟨alone, zones⟩ := walk_dropWaiter_floor c (manualWaitCounted c r n s)
  refine ⟨_, congrArg Host.Outcome.next ((fieldStep_taken held due counted).trans works), ?_, ?_, ?_, ?_, ?_,
    whole.shots, whole.monitor⟩
  · rw [modChan_chan_self, toPhase_phase, restPhase_eq]
  · rw [modChan_floor, notice_floor, sendDeny_floor]
    exact alone
  · rw [modChan_floor, notice_floor, sendDeny_floor]
    exact zones
  · have denied := sendDeny_last_or_full c 1 (walk (dropWaiter c (manualWaitCounted c r n s)))
    rwa [withdrawn.config, manualWaitCounted_config, withdrawn.partAddress, ← notice_link, ← modChan_link] at denied
  · rw [modChan_out, ← noticeFrame_congr (s := s) ((sendDeny_partAddress c 1 _).trans withdrawn.partAddress)]
    exact notice_last_or_lost _ _

/-- Settles O49: in each state a request or a release is the one operation that its state calls for. -/
theorem manualRequestAndReleaseActByState : Obligations.ManualRequestAndReleaseActByState := by
  refine ⟨fun s m c h hm => ?_, fun s m c h hm => ?_⟩
  · have head_chan : (afterHead s).chan c = s.chan c := afterHead_chan s c
    have acts {t : State} (taken : takeManualRequest c (afterHead s) = t) : exec (.manualRequest m) s = .next t := by
      rw [exec_manualRequest h hm, taken]
    refine ⟨fun r rests walked => ?_, fun motion => acts (takeManualRequest_motion motion), fun r n waits => ?_,
      fun fault => acts ?_⟩
    · have phase : (s.chan c).phase = restPhase r := by
        rcases rests with ⟨phase, rfl⟩ | ⟨phase, rfl⟩ <;> exact phase
      have still : inMotion (s.chan c).phase = false := by rw [phase]; cases r <;> rfl
      have requests := takeManualRequest_rests (s := afterHead s) phase
      have grants (opens) := requests.trans (enterManualWait_grants (s := afterHead s) walked opens r)
      refine ⟨fun closed => acts ?_, fun opens => ⟨_, acts (grants opens), ?_⟩⟩
      · rw [requests, enterManualWait_waits (s := afterHead s) walked closed, manualRequested,
          modChan_congr (g := fun ch => { ch with phase := .manualWait r 0, manualPending := false })
            (intoManualWait_of_rest (ch := (afterHead s).chan c) still)]
        rfl
      · refine ⟨?_, ?_, rfl, fun z => ownZones_get c z _ _, rfl, rfl, fun d hd => modChan_chan_ne _ _ hd⟩
        · rw [modChan_chan_self, toPhase_phase]
        · rw [modChan_chan_self, toPhase_manualPending]
          rfl
    · rcases waits with waits | waits <;> exact acts (by simp only [takeManualRequest, head_chan, waits])
    · rw [takeManualRequest_fault (s := afterHead s) fault, notice_eq, sendDeny, pushHead_eq]
      rfl
  · have acts {t : State} (taken : takeManualRelease c (afterHead s) = t) : exec (.manualRelease m) s = .next t := by
      rw [exec_manualRelease h hm, taken]
    refine ⟨fun r manual => acts ?_, fun r n waits => ⟨_, acts (takeManualRelease_waiting waits), ?_⟩,
      fun other => acts (takeManualRelease_elsewhere other)⟩
    · rw [takeManualRelease_manual (s := afterHead s) manual, ← restPhase_eq]
      rfl
    · have keeps := walk_dropWaiter_keeps c (afterHead s)
      obtain ⟨alone, zones⟩ := walk_dropWaiter_floor c (afterHead s)
      refine ⟨?_, ?_, ?_, ?_, ?_, ?_, ?_⟩
      · rw [modChan_chan_self, toPhase_phase, restPhase_eq]
      · rw [modChan_floor, notice_floor]
        exact alone
      · rw [modChan_floor, notice_floor]
        exact zones
      · obtain ⟨q, n, k, left⟩ := (walk_dropWaiter_beside c (afterHead s)).aside
        rw [modChan_chan_self, toPhase_commanded, notice_chan, left]
        rfl
      · rw [modChan_out, ← noticeFrame_congr (s := s) keeps.partAddress]
        exact notice_last_or_lost _ _
      · exact (notice_shots _ _).trans keeps.shots
      · exact (notice_monitor _ _).trans keeps.monitor

end Sys2Proof.Proofs
end

section
/-! To whom a field event is due: no work at a channel changes that, and a taking ends it for its taker alone (R62, R160). -/

namespace Sys2Proof.Machine

/-- The latest field event is due to the channels of a set. -/
def DuesAre (D : Chan → Bool) (s : State) : Prop := ∀ c, (s.chan c).fieldDue = D c

section
variable {D : Chan → Bool}

/-! ## Changes of the state -/

theorem DuesAre.of_aside {s t : State} (h : DuesAre D s) (k : ∀ c, Aside c s t) : DuesAre D t := fun c => by
  obtain ⟨q, n, p, left⟩ := k c
  rw [left]
  exact h c

theorem DuesAre.of_channels {s t : State} (h : DuesAre D s) (k : t.channels = s.channels) : DuesAre D t :=
  h.of_aside fun c => Aside_of_eq (by rw [State.chan, k, State.chan])

theorem DuesAre.modChan {s : State} (h : DuesAre D s) {c : Chan} {f : Channel → Channel}
    (k : (f (s.chan c)).fieldDue = (s.chan c).fieldDue) : DuesAre D (s.modChan c f) := fun d => by
  rw [modChan_chan]
  split
  · next e => rw [k, e, h c]
  · exact h d

theorem DuesAre.toPhase {s : State} (h : DuesAre D s) (c : Chan) (p : Phase) : DuesAre D (s.modChan c (toPhase p)) :=
  h.modChan (toPhase_fieldDue p _)

theorem DuesAre.takeReported {s : State} (h : DuesAre D s) (c : Chan) :
    DuesAre D (s.modChan c fun ch => if ch.valid then takeReported ch else ch) :=
  h.modChan (by split <;> rfl)

theorem DuesAre.notice {s : State} (h : DuesAre D s) (p : List Byte) : DuesAre D (notice p s) :=
  h.of_channels (notice_channels p s)

theorem DuesAre.pushHead {s : State} (h : DuesAre D s) (f : Frame) : DuesAre D (pushHead f s) :=
  h.of_channels (pushHead_channels f s)

theorem DuesAre.emit {s : State} (h : DuesAre D s) (c : Chan) (f : Frame) : DuesAre D (emit c f s) :=
  h.of_channels (emit_channels c f s)

theorem DuesAre.setFloor {s : State} (h : DuesAre D s) (f : Floor) : DuesAre D { s with floor := f } := h.of_channels rfl

/-! ## The end of a move and the walk -/

section
variable {w : State → State} (hw : ∀ s, DuesAre D s → DuesAre D (w s))
include hw

theorem DuesAre.settleFloor {s : State} (h : DuesAre D s) (c : Chan) (keep : Option (List Zone)) :
    DuesAre D (settleFloor w c keep s) := by
  unfold Machine.settleFloor
  split
  · exact h
  · split
    · exact h
    · exact hw _ (h.setFloor _)

theorem DuesAre.enterManualWait {s : State} (h : DuesAre D s) (c : Chan) (r : RestState) :
    DuesAre D (enterManualWait w c r s) := by
  have waits : DuesAre D (s.modChan c fun ch => { Machine.toPhase (.manualWait r 0) ch with manualPending := false }) :=
    h.modChan (toPhase_fieldDue _ _)
  exact hw _ (waits.setFloor _)

theorem DuesAre.enterRest {s : State} (h : DuesAre D s) (c : Chan) (r : RestState) : DuesAre D (enterRest w c r s) := by
  have rests := h.toPhase c (restPhase r)
  simp only [Machine.enterRest]
  split
  · exact rests.enterManualWait hw c .held
  · exact rests

theorem DuesAre.moveEnd {s : State} (h : DuesAre D s) (c : Chan) (e : MoveEnd) (x : MoveExit) :
    DuesAre D (moveEnd w c e x s) := by
  have ended := (h.notice (moveEndBytes c e.cue.shot e.cue.tag e)).modChan (c := c)
    (f := fun ch => { ch with last := some (e.cue.shot, e.outcome) }) rfl
  have released := ended.of_aside fun d => Aside_releaseEntry d none _
  have settled := released.settleFloor hw c e.keep
  cases x with
  | rest r => exact settled.enterRest hw c r
  | fault => exact settled.toPhase c .fault

theorem DuesAre.takeGrant {s : State} (h : DuesAre D s) (x : Waiter) : DuesAre D (takeGrant w s x) := by
  unfold Machine.takeGrant
  split
  · split
    · exact h.moveEnd hw _ _ _
    · exact h.toPhase _ _
  · exact ((h.pushHead _).notice _).toPhase _ _
  · exact h

theorem DuesAre.withdrawMove {s : State} (h : DuesAre D s) (c : Chan) (m : Move) (o : MoveOutcome) (x : MoveExit) :
    DuesAre D (withdrawMove w c m o x s) := hw _ ((h.setFloor _).moveEnd hw c _ x)

end

theorem DuesAre.walk (s : State) (h : DuesAre D s) : DuesAre D (walk s) :=
  walkN_keeps_of (fun _ k => k.setFloor _) (fun _ hw _ _ x _ _ k => k.takeGrant hw x) _ s h

/-! ## The field event of a channel -/

theorem DuesAre.enterFault {s : State} (h : DuesAre D s) (c : Chan) (r : FaultReason) : DuesAre D (enterFault c r s) := by
  have ended : DuesAre D (endForFault c s) := by
    unfold endForFault
    split
    · exact h.withdrawMove walk c _ _ _
    · exact h.moveEnd walk c _ _
    · exact h.moveEnd walk c _ _
    · exact h.moveEnd walk c _ _
    · exact ((walk _ (h.setFloor _)).pushHead _).toPhase c _
    · exact h.toPhase c _
  have denied {t : State} (k : DuesAre D t) : DuesAre D (if (t.chan c).manualPending then
      sendDeny c 2 (t.modChan c fun ch => { ch with manualPending := false }) else t) := by
    split
    · exact (k.modChan (f := fun ch => { ch with manualPending := false }) rfl).pushHead _
    · exact k
  exact ((denied ended).takeReported c).notice _

theorem DuesAre.moveField {s : State} (h : DuesAre D s) (c : Chan) (m : Move) : DuesAre D (moveField c m s) := by
  have emitted : DuesAre D (emitProfile c m s) := (h.emit c _).modChan rfl
  simp only [Machine.moveField, completeProfile]
  split
  · split
    · exact emitted.modChan rfl
    · exact emitted.moveEnd walk c _ _
  · exact emitted

theorem DuesAre.requestMove {s : State} (h : DuesAre D s) (c : Chan) (m : Move) : DuesAre D (requestMove c m s) := by
  simp only [Machine.requestMove]
  generalize walkPass s.floor.owners [] (s.floor.waiters ++ [⟨c, .move, m.zones⟩]) = r
  have asked : DuesAre D (if (r.2.2.any fun w => w.channel == c) = true then { s with floor := ⟨r.1, r.2.1⟩ }
      else State.modChan { s with floor := ⟨r.1, r.2.1⟩ } c (intoMotion (.zoneWait m))) := by
    split
    · exact h.setFloor _
    · exact (h.setFloor _).modChan rfl
  have handed := foldl_gives (G := DuesAre D) (Machine.takeGrant Machine.walk) (fun _ x k => k.takeGrant walk x)
    (r.2.2.filter fun w => w.channel != c) _ asked
  split
  · exact handed
  · split
    · exact handed.moveEnd walk c _ _
    · have moves := handed.modChan (c := c) (f := intoMotion (.moving m)) rfl
      exact moves.moveField c m

theorem DuesAre.startAttempt {s : State} (h : DuesAre D s) (c : Chan) : DuesAre D (startAttempt c s) := by
  simp only [Machine.startAttempt, resolveMove]
  split
  · exact h.enterManualWait walk c _
  · split
    · exact h
    · next q qs _ =>
      have taken : DuesAre D (s.modChan c fun ch => { ch with queue := qs }) := h.modChan rfl
      split
      · exact h
      · split
        · exact taken.moveEnd walk c _ _
        · split
          · exact taken.modChan rfl
          · split
            · exact taken.moveEnd walk c _ _
            · split
              · exact taken.moveEnd walk c _ _
              · exact taken.requestMove c _

/-- The field work of a channel's state (R62, step 4). -/
theorem DuesAre.fieldWork {s : State} (h : DuesAre D s) (c : Chan) : DuesAre D (fieldWork c s) := by
  have counted (p : Phase) : DuesAre D (s.modChan c fun ch => { ch with phase := p }) := h.modChan rfl
  have moved (f : Frame) (p : Phase) (g : Channel → PerAxis Int) : DuesAre D ((Machine.emit c f s).modChan c fun ch =>
      { ch with commanded := g ch, phase := p }) := (h.emit c f).modChan rfl
  unfold Machine.fieldWork
  split
  · exact h.startAttempt c
  · simp only [zoneWaitField]
    split
    · exact (counted _).withdrawMove walk c _ _ _
    · exact counted _
  · exact h.moveField c _
  · next m st _ =>
    simp only [stopField]
    split
    · exact (moved _ _ (stopCommanded m st)).moveEnd walk c _ _
    · exact moved _ _ (stopCommanded m st)
  · simp only [settleField]
    split
    · exact (counted _).moveEnd walk c _ _
    · exact counted _
  · next j _ =>
    have stepped := moved (setpointFrame s c 2 (jogSetpoints (s.chan c) (ageJog j)))
      (.jogging (stepJog (s.chan c) (ageJog j))) fun _ => jogPositions (s.chan c) (ageJog j)
    simp only [jogField]
    split
    · exact stepped.enterRest walk c _
    · exact stepped
  · simp only [manualWaitField]
    split
    · exact (((walk _ ((counted _).setFloor _)).pushHead _).notice _).toPhase c _
    · exact counted _
  all_goals exact h

end

/-- A channel that takes its field event has taken it, and to every other channel it is due as before (R160). -/
theorem takeField_fieldDue (c d : Chan) (s : State) :
    ((takeField c s).chan d).fieldDue = if d = c then false else (s.chan d).fieldDue := by
  have taken {f : Channel → Channel} (k : (f (s.chan c)).fieldDue = false) :
      DuesAre (fun d => if d = c then false else (s.chan d).fieldDue) (s.modChan c f) := fun d => by
    rw [modChan_chan]
    by_cases e : d = c <;> simp [e, k]
  unfold takeField
  split
  · next due =>
    split
    · next e => simpa [e] using due
    · rfl
  · split
    · exact taken rfl d
    · have booked := taken (f := bookkeep) rfl
      dsimp only
      split
      · exact booked.enterFault c .reportLoss d
      · exact booked.fieldWork c d

theorem takeField_mapped (c d : Chan) (s : State) : mapped ((takeField c s).chan d) = mapped (s.chan d) := by
  have vacant : VacantAre (fun d => (s.chan d).phase = .vacant) s := fun _ => Iff.rfl
  rw [mapped, mapped, Bool.eq_iff_iff, bne_iff_ne, bne_iff_ne, ne_eq, vacant.takeField c d]

theorem takeField_of_not_due {c : Chan} {s : State} (h : (s.chan c).fieldDue = false) : takeField c s = s := by
  rw [takeField, h]
  rfl

/-! ## The takers of a field event (R160, R177) -/

/-- What the takers of a list, taking the latest field event, leave of it and of the blocks beside the channels. -/
structure Taken (takers : List Taker) (s t : State) : Prop where
  monitor : t.monitor = { s.monitor with headDue := s.monitor.headDue && decide (.headPort ∉ takers) }
  due : ∀ c, (t.chan c).fieldDue = ((s.chan c).fieldDue && decide (.channel c ∉ takers))
  mapped : ∀ c, mapped (t.chan c) = mapped (s.chan c)
  shots : t.shots = s.shots
  partAddress : t.partAddress = s.partAddress

theorem Taken.refl (s : State) : Taken [] s s := ⟨by simp, by simp, fun _ => rfl, rfl, rfl⟩

theorem Taken.trans {xs ys : List Taker} {s t u : State} (h : Taken xs s t) (k : Taken ys t u) : Taken (xs ++ ys) s u where
  monitor := by simp [k.monitor, h.monitor, Bool.and_assoc]
  due := fun c => by simp [k.due, h.due, Bool.and_assoc]
  mapped := fun c => (k.mapped c).trans (h.mapped c)
  shots := k.shots.trans h.shots
  partAddress := k.partAddress.trans h.partAddress

theorem takeHead_of_due {s : State} (h : s.monitor.headDue = true) : takeHead s = { s with
    link := { s.link with batch := s.link.nextBatch, nextBatch := Batch.empty }
    monitor := { s.monitor with headDue := false } } := if_pos h

theorem takeHead_of_not_due {s : State} (h : s.monitor.headDue = false) : takeHead s = s := by
  rw [takeHead, h]
  rfl

theorem takeDue_taken (s : State) (k : Taker) : Taken [k] s (takeDue s k) := by
  cases k with
  | headPort =>
    cases due : s.monitor.headDue with
    | true =>
      rw [takeDue, takeHead_of_due due]
      exact ⟨by simp, fun c => by simp [State.chan], fun _ => rfl, rfl, rfl⟩
    | false =>
      rw [takeDue, takeHead_of_not_due due]
      exact ⟨by simp [← due], by simp, fun _ => rfl, rfl, rfl⟩
  | channel c =>
    have keeps := takeField_keeps c s
    refine ⟨by simp [takeDue, keeps.monitor], fun d => ?_, (takeField_mapped c · s), keeps.shots, keeps.partAddress⟩
    rw [takeDue, takeField_fieldDue]
    by_cases e : d = c <;> simp [e]

theorem foldl_takeDue_taken (takers : List Taker) (s : State) : Taken takers s (takers.foldl takeDue s) := by
  induction takers generalizing s with
  | nil => exact .refl s
  | cons k ks ih => exact (takeDue_taken s k).trans (ih _)

theorem finishField_taken (s : State) : Taken allTakers s (finishField s) := foldl_takeDue_taken allTakers s

/-- With nothing left of a field event there is nothing to finish. -/
theorem finishField_of_none_due {s : State} (head : s.monitor.headDue = false)
    (channels : ∀ c, (s.chan c).fieldDue = false) : finishField s = s := by
  have idles (k : Taker) : takeDue s k = s := by
    cases k with
    | headPort => exact takeHead_of_not_due head
    | channel c => exact takeField_of_not_due (channels c)
  exact foldl_gives (G := (· = s)) takeDue (fun t k e => by rw [e, idles]) allTakers s rfl

/-! ## Delivery (R160) -/

theorem foldl_modChan_chan (f : Channel → Channel) (d : Chan) {cs : List Chan} (nodup : cs.Nodup) (s : State) :
    (cs.foldl (fun s c => s.modChan c f) s).chan d = if d ∈ cs then f (s.chan d) else s.chan d := by
  induction cs generalizing s with
  | nil => rfl
  | cons c cs ih =>
    obtain ⟨fresh, nodup⟩ := List.nodup_cons.1 nodup
    rw [List.foldl_cons, ih nodup, modChan_chan]
    by_cases e : d = c
    · subst e
      simp [fresh]
    · simp [e]

theorem deliver_eq (s : State) : ∃ channels, deliver s = { s with
    channels := channels, monitor := { s.monitor with headDue := true, fieldState := s.monitor.state } } := by
  unfold deliver
  refine foldl_gives (G := fun t => ∃ channels, t = { s with
    channels := channels, monitor := { s.monitor with headDue := true, fieldState := s.monitor.state } }) _
    (fun t c k => ?_) _ _ ⟨s.channels, rfl⟩
  obtain ⟨channels, rfl⟩ := k
  exact ⟨_, rfl⟩

theorem deliver_chan (s : State) (c : Chan) :
    (deliver s).chan c = { s.chan c with fieldDue := mapped (s.chan c) } := by
  rw [deliver, foldl_modChan_chan _ c allChans_nodup, if_pos (mem_allChans c)]
  rfl

/-- A field event produced in s has been delivered, and the takers of a list have taken it. -/
structure Delivered (takers : List Taker) (s u : State) : Prop where
  monitor : u.monitor = { s.monitor with headDue := decide (.headPort ∉ takers), fieldState := s.monitor.state }
  due : ∀ c, (u.chan c).fieldDue = (mapped (u.chan c) && decide (.channel c ∉ takers))
  shots : u.shots = s.shots
  partAddress : u.partAddress = s.partAddress

theorem fieldEvent_delivered (takers : List Taker) (s : State) : Delivered takers s (fieldEvent takers s) := by
  have taken := foldl_takeDue_taken takers (deliver s)
  obtain ⟨channels, delivered⟩ := deliver_eq s
  refine ⟨?_, fun c => ?_, ?_, ?_⟩
  · rw [fieldEvent, taken.monitor, delivered]
    rfl
  · rw [fieldEvent, taken.due, taken.mapped, deliver_chan]
    rfl
  · rw [fieldEvent, taken.shots, delivered]
  · rw [fieldEvent, taken.partAddress, delivered]

theorem Delivered.headDue_iff {takers : List Taker} {s u : State} (h : Delivered takers s u) :
    u.monitor.headDue = true ↔ .headPort ∉ takers := by rw [h.monitor, decide_eq_true_iff]

theorem Delivered.due_iff {takers : List Taker} {s u : State} (h : Delivered takers s u) (c : Chan) :
    (u.chan c).fieldDue = true ↔ mapped (u.chan c) = true ∧ .channel c ∉ takers := by
  rw [h.due, Bool.and_eq_true_iff, decide_eq_true_iff]

/-- Before any taker it is due to the Head Port, and to the mapped channels. -/
theorem Delivered.untaken {s v : State} (h : Delivered [] s v) :
    v.monitor.headDue = true ∧ ∀ c, (v.chan c).fieldDue = mapped (v.chan c) :=
  ⟨h.headDue_iff.2 (by simp), fun c => by simp [h.due]⟩

end Sys2Proof.Machine
end

section
/-! The Reference Monitor's commands, and the empty queue (R159 to R167; log entries 2 and 3). -/

namespace Sys2Proof.Machine

/-! ## The empty queue -/

/-- The least channel of which a property holds is the first one found. -/
theorem find?_allChans {p : Chan → Bool} {c : Chan} (hc : p c = true) (least : ∀ d, d < c → p d = false) :
    allChans.find? p = some c := by
  obtain ⟨before, after, e⟩ := List.append_of_mem (mem_allChans c)
  have sorted : allChans.Pairwise (· < ·) := by decide
  rw [e] at sorted ⊢
  refine List.find?_eq_some_iff_append.2 ⟨hc, before, after, rfl, fun d hd => ?_⟩
  rw [least d ((List.pairwise_append.1 sorted).2.2 d hd c List.mem_cons_self)]
  rfl

theorem step_of_empty {s : State} (h : s.pending = []) : step s = .next (idle s) := by rw [step, h]

/-! ## The commands come about at an open time (log entry 3) -/

theorem exec_referencePulse {s : State} {t : Nat} (held : s.resetHeld = false) (opened : timeOpen s.monitor t = true)
    (takers : List Taker) : exec (.referencePulse t takers) s = .next (pulse t takers s) :=
  congrArg Host.Outcome.next (if_pos (by rw [held, opened]; rfl))

theorem exec_windowElapsedLimit {s : State} {w : Window} (held : s.resetHeld = false) (hw : s.monitor.window = some w)
    (opened : timeOpen s.monitor (windowEnd w) = true) : exec .windowElapsedLimit s = .next (endWindow w s) := by
  refine congrArg Host.Outcome.next ?_
  simp only [windowLimitCommand, hw, held, opened]
  rfl

theorem exec_flywheelTimerExpiry {s : State} (held : s.resetHeld = false)
    (opened : timeOpen s.monitor s.monitor.flywheelAt = true) (takers : List Taker) :
    exec (.flywheelTimerExpiry takers) s = .next (expireFlywheel takers s) :=
  congrArg Host.Outcome.next (if_pos (by rw [held, opened]; rfl))

/-- A change of the reference state, with its notice, and nothing else (R167). -/
theorem changeRef_eq (r : RefState) (s : State) : changeRef r s = { s with
    monitor := { s.monitor with state := r }
    out := withNotice s (partEventPayload r s.monitor.heldPeriod) } := notice_eq _ _

/-! ## Pulses outside LOCKED (R161 to R163) -/

theorem pulse_starts {s : State} (unlocked : s.monitor.state ≠ .locked) (idle : s.monitor.window = none) (t : Nat)
    (takers : List Taker) : pulse t takers s = if s.monitor.state = .absent then
        changeRef .acquire { s with monitor := { s.monitor with now := t, window := some ⟨t, 0⟩ } }
      else { s with monitor := { s.monitor with now := t, window := some ⟨t, 0⟩ } } := by
  simp only [pulse, if_neg unlocked, idle, startWindow]

theorem pulse_in_window {s : State} {w : Window} (unlocked : s.monitor.state ≠ .locked)
    (active : s.monitor.window = some w) (t : Nat) (takers : List Taker) :
    pulse t takers s = windowPulse t w { s with monitor := { s.monitor with now := t } } := by
  simp only [pulse, if_neg unlocked, active]

theorem windowPulse_counts {w : Window} (h : w.pulses < 7) (t : Nat) (s : State) : windowPulse t w s
    = { s with monitor := { s.monitor with window := some { w with pulses := w.pulses + 1 } } } :=
  if_pos (Nat.succ_lt_succ h)

theorem windowPulse_eighth {w : Window} (h : w.pulses = 7) (t : Nat) (s : State) : windowPulse t w s
    = if 120000 ≤ t - w.startAt then lock t (t - w.startAt) s
      else { s with monitor := { s.monitor with window := none } } :=
  if_neg (by simp [h, Config.windowPulses])

/-- The period measured is the rounded eighth of the time elapsed (R35, R162). -/
theorem measured_eighth (elapsed : Nat) :
    (profileRound (elapsed : Int) Config.windowPulses).toNat = (elapsed + 4) / 8 := by
  rw [profileRound_natCast, Int.toNat_natCast, Config.windowPulses]
  split <;> omega

/-! ## Field events of the Reference Monitor (R159, R164 to R166) -/

theorem pulseAccepted_iff (m : Monitor) (t : Nat) :
    pulseAccepted m t = true ↔ m.afterLock = true ∨ m.lastFieldAt + m.heldPeriod ≤ t + 500 := by
  rw [pulseAccepted, Bool.or_eq_true, decide_eq_true_iff]
  rfl

/-- The state in which the field event of an accepted pulse is delivered (R159, R164). -/
def pulsed (t : Nat) (s : State) : State :=
  recordField t (s.monitor.heldPeriod + Config.pulseTolerance)
    (finishField { s with monitor := { s.monitor with now := t } })

/-- In LOCKED a pulse is accepted or changes nothing but the time (R163, R164). -/
theorem pulse_locked {s : State} (locked : s.monitor.state = .locked) (t : Nat) (takers : List Taker) : pulse t takers s
    = if pulseAccepted s.monitor t then fieldEvent takers (pulsed t s)
      else { s with monitor := { s.monitor with now := t } } := if_pos locked

theorem pulsed_monitor (t : Nat) (s : State) : (pulsed t s).monitor = { s.monitor with
    now := t
    lastFieldAt := t
    flywheelAt := t + (s.monitor.heldPeriod + 500)
    afterLock := false
    headDue := (pulsed t s).monitor.headDue } := by
  simp [pulsed, recordField, (finishField_taken _).monitor, Config.pulseTolerance]

theorem pulsed_shots (t : Nat) (s : State) : (pulsed t s).shots = s.shots := by
  simp [pulsed, recordField, (finishField_taken _).shots]

theorem pulsed_partAddress (t : Nat) (s : State) : (pulsed t s).partAddress = s.partAddress := by
  simp [pulsed, recordField, (finishField_taken _).partAddress]

/-- The takers of a field event take it one after another from its delivery (log entry 2). -/
theorem fieldEvent_eq_foldl {takes : State → Taker → State} (h : takes = takeDue) (takers : List Taker) (s : State) :
    fieldEvent takers s = takers.foldl takes (fieldEvent [] s) := by
  simp only [h, fieldEvent, List.foldl_nil]

/-- The state in which the flywheel's expiry is delivered: recorded, and in FLYWHEEL after LOCKED (R159, R165). -/
def expired (s : State) : State :=
  let t := recordField s.monitor.flywheelAt s.monitor.heldPeriod (finishField s)
  if s.monitor.state = .locked then changeRef .flywheel t else t

theorem expireFlywheel_eq (takers : List Taker) (s : State) : expireFlywheel takers s = fieldEvent takers (expired s) := rfl

theorem expired_monitor (s : State) : (expired s).monitor = { s.monitor with
    state := if s.monitor.state = .locked then .flywheel else s.monitor.state
    now := s.monitor.flywheelAt
    lastFieldAt := s.monitor.flywheelAt
    flywheelAt := s.monitor.flywheelAt + s.monitor.heldPeriod
    afterLock := false
    headDue := (expired s).monitor.headDue } := by
  simp only [expired]
  split
  · simp [changeRef_eq, recordField, (finishField_taken s).monitor]
  · simp [recordField, (finishField_taken s).monitor]

theorem expired_shots (s : State) : (expired s).shots = s.shots := by
  simp only [expired]
  split
  · simp [changeRef_eq, recordField, (finishField_taken s).shots]
  · simp [recordField, (finishField_taken s).shots]

end Sys2Proof.Machine

namespace Sys2Proof.Proofs
open Sys2Proof.Machine

/-- Settles O2: by what is due first, the Head Port, the least channel, or nothing. -/
theorem emptyQueueStepFinishesFieldEvent : Obligations.EmptyQueueStepFinishesFieldEvent := by
  intro s empty
  rw [step_of_empty empty, idle]
  refine ⟨fun held head => ?_, fun c held head due least => ?_, fun nothing => ?_⟩
  · rw [if_neg (ne_true_of_eq_false held), if_pos head, takeHead_of_due head]
  · rw [if_neg (ne_true_of_eq_false held), if_neg (ne_true_of_eq_false head), find?_allChans due least]
  · obtain held | ⟨head, channels⟩ := nothing
    · rw [if_pos held]
    · have nobody : (allChans.find? fun c => (s.chan c).fieldDue) = none :=
        List.find?_eq_none.2 fun c _ => ne_true_of_eq_false (channels c)
      rw [if_neg (ne_true_of_eq_false head), nobody, ite_self]

/-- Settles O50: outside LOCKED by the active window and its count, and in LOCKED by whether the pulse is accepted. -/
theorem referencePulseMeasuresLocksOrBeats : Obligations.ReferencePulseMeasuresLocksOrBeats := by
  refine ⟨fun s t takers held opened unlocked => ?_, ?_⟩
  · rw [exec_referencePulse held opened]
    refine ⟨fun idle => ?_, fun w active => ?_⟩
    · rw [pulse_starts unlocked idle, changeRef_eq]
      rfl
    · rw [pulse_in_window unlocked active]
      refine ⟨fun more => ?_, fun eighth short => ?_, ?_⟩
      · rw [windowPulse_counts more]
      · rw [windowPulse_eighth eighth, if_neg (Nat.not_le.2 short)]
      · intro eighth long period
        rw [windowPulse_eighth eighth, if_pos long, lock, measured_eighth, changeRef_eq]
        rfl
  · intro s t takers held opened locked takes
    simp only [exec_referencePulse held opened]
    refine ⟨fun settled early => ?_, fun due => ?_⟩
    · rw [pulse_locked locked, if_neg (by simpa [pulseAccepted_iff, settled] using early)]
    · simp only [pulse_locked locked, if_pos ((pulseAccepted_iff _ _).2 due)]
      have takes_eq : takes = takeDue := by funext u k; cases k <;> rfl
      obtain ⟨head, channels⟩ := (fieldEvent_delivered [] (pulsed t s)).untaken
      have delivered := fieldEvent_delivered takers (pulsed t s)
      refine ⟨_, _, rfl, rfl, fieldEvent_eq_foldl takes_eq _ _, head, channels, delivered.headDue_iff,
        delivered.due_iff, ?_⟩
      rw [delivered.monitor, pulsed_monitor]
      exact ⟨rfl, rfl, (Nat.add_assoc _ _ _).symm, locked, locked, rfl, rfl, rfl,
        delivered.shots.trans (pulsed_shots t s), delivered.partAddress.trans (pulsed_partAddress t s)⟩

/-- Settles O51: the window's end by the state, and the expiry as a field event that the takers take. -/
theorem windowLimitAndFlywheelExpiryActByState : Obligations.WindowLimitAndFlywheelExpiryActByState := by
  refine ⟨fun s w held active opened lost => ?_, ?_⟩
  · rw [exec_windowElapsedLimit held active opened, endWindow, if_pos lost, changeRef_eq]
    rfl
  · intro s takers held opened takes
    simp only [exec_flywheelTimerExpiry held opened, expireFlywheel_eq]
    have takes_eq : takes = takeDue := by funext u k; cases k <;> rfl
    obtain ⟨head, channels⟩ := (fieldEvent_delivered [] (expired s)).untaken
    have delivered := fieldEvent_delivered takers (expired s)
    refine ⟨_, _, rfl, rfl, fieldEvent_eq_foldl takes_eq _ _, head, channels, delivered.headDue_iff,
      delivered.due_iff, ?_⟩
    rw [delivered.monitor, expired_monitor]
    refine ⟨rfl, rfl, rfl, rfl, rfl, rfl, rfl, rfl, fun taken all locked => ?_, delivered.shots.trans (expired_shots s)⟩
    obtain ⟨channels, e⟩ := deliver_eq (expired s)
    rw [fieldEvent, List.foldl_nil, e]
    simp only [expired, if_pos locked, changeRef_eq, finishField_of_none_due taken all]
    rfl

end Sys2Proof.Proofs
end
